-- ==== Sys2Proof/Word.lean ====
section
/-! DEFINITION. Bytes, words, byte strings of fixed length (R8, R12, R13) and the small enumerations that
name the fields of a command word (R92). -/

namespace Sys2Proof

/-- A byte, 0 to 255 (R12). -/
abbrev Byte := BitVec 8

/-- A bus word: 32 bits, bit 0 the least significant (R13). -/
abbrev Word := BitVec 32

/-- A finite byte string, byte 0 first (R12, R61). -/
abbrev Bytes := List Byte

/-- A string of exactly 16 bytes: a cipher block, a half, the master seed, the IV (R8). -/
abbrev Bytes16 := Vector Byte 16

/-- A string of exactly 32 bytes: a digest, a key, the transform seed, the key-file hash (R8). -/
abbrev Bytes32 := Vector Byte 32

/-- The identifier of a lane, 0 or 1 (R137). -/
abbrev LaneId := Fin 2

/-- `0^16` (R12). -/
abbrev zero16 : Bytes16 := Vector.replicate 16 0

/-- `0^32` (R12). -/
abbrev zero32 : Bytes32 := Vector.replicate 32 0

/-- The key source of `OPEN`, field `KS` (R92): 0 = derive the key from KeyMaterial, 1 = use `CKEY`. -/
inductive KeySource where
  | derived
  | supplied
  deriving DecidableEq, Repr

/-- The direction handed to the codec, field `DIR` (R92): 0 = encrypt (writer), 1 = decrypt (reader). -/
inductive Direction where
  | encrypt
  | decrypt
  deriving DecidableEq, Repr

/-- The three mask bits of `CLEAR`, field `CLR` (R92). -/
structure ClearMask where
  km   : Bool
  ckey : Bool
  sess : Bool
  deriving DecidableEq, Repr

/-- Where a word is written: `CMD` takes format C, `KF_PUSH` takes format P (R90). -/
inductive Port where
  | cmd
  | kfPush
  deriving DecidableEq, Repr

end Sys2Proof
end

