-- ==== Sys2Proof/Syntax.lean ====
section
/-! DEFINITION. The instructions: one constructor per row of spec/opcode_table.json (R93, R100). -/

namespace Sys2Proof

/-- One command word or one stream-event word. A field that a row does not list must be 0 in its word (R94),
so it is no argument of the constructor. -/
inductive Instr where
  /-- `DERIVE` (R120), format C. -/
  | derive
  /-- `KFREAD` (R150), format C. -/
  | kfread
  /-- `OPEN ks=<ks> dir=<dir>` (R170), format C. -/
  | openSession (ks : KeySource) (dir : Direction)
  /-- `CLEAR [km] [ckey] [sess]` (R190), format C. -/
  | clear (km ckey sess : Bool)
  /-- `PUSH b` (R157), format P. -/
  | push (b : Byte)
  /-- `EOS` (R158), format P. -/
  | eos
  /-- `SRCERR c` (R159), format P. -/
  | srcerr (c : Byte)
  deriving DecidableEq, Repr

end Sys2Proof
end

