-- ==== Sys2Proof/Decode.lean ====
section
/-! DEFINITION. The decoder, total on every word and rejecting by name (R90 to R101), and after it the encoder,
written from the same tables (R92, R100, R102). -/

namespace Sys2Proof

/-- `w[hi:lo]`, the field from bit `hi` down to bit `lo` as an unsigned integer (R13). -/
def field (w : Word) (hi lo : Nat) : Nat := w.toNat / 2 ^ lo % 2 ^ (hi + 1 - lo)

/-- `w[7:0]` as a byte: `OPC` of format C (R92), `DATA` of format P (R100). -/
def lowByte (w : Word) : Byte := BitVec.ofNat 8 (field w 7 0)

/-- A one-bit field as a truth value. -/
def bit (w : Word) (i : Nat) : Bool := field w i i == 1

/-- What the decoder answers: an instruction, or a rejection by name. -/
inductive Decoded where
  | instr (i : Instr)
  /-- An illegal command word (R97); it records `E_BADCMD` with its opcode byte (R91 step 3). -/
  | illegalCommand (opcode : Byte)
  /-- A word that encodes no stream event (R101); its write gets bus `ERROR`. -/
  | noEvent
  deriving DecidableEq, Repr

/-- The field `KS` (R92). -/
def keySourceOf (b : Bool) : KeySource := if b then .supplied else .derived

/-- The field `DIR` (R92). -/
def directionOf (b : Bool) : Direction := if b then .decrypt else .encrypt

/-- `decodeCmd` (R99): the last arm refuses. -/
def decodeCmd (w : Word) : Decoded :=
  if field w 31 13 ≠ 0 then .illegalCommand (lowByte w)
  else if field w 7 0 = 0x01 ∧ field w 12 8 = 0 then .instr .derive
  else if field w 7 0 = 0x02 ∧ field w 12 8 = 0 then .instr .kfread
  else if field w 7 0 = 0x03 ∧ field w 12 10 = 0 then
    .instr (.openSession (keySourceOf (bit w 8)) (directionOf (bit w 9)))
  else if field w 7 0 = 0x04 ∧ field w 9 8 = 0 then
    .instr (.clear (bit w 10) (bit w 11) (bit w 12))
  else .illegalCommand (lowByte w)

/-- `decodeEvent` (R101): the last arm refuses. -/
def decodeEvent (w : Word) : Decoded :=
  if field w 31 10 ≠ 0 then .noEvent
  else if field w 9 8 = 0 then .instr (.push (lowByte w))
  else if field w 9 8 = 1 ∧ field w 7 0 = 0 then .instr .eos
  else if field w 9 8 = 2 then .instr (.srcerr (lowByte w))
  else .noEvent

/-- The decoder: which format a word has is decided by where it is written, never by its bits (R90). -/
def decode : Port → Word → Decoded
  | .cmd, w => decodeCmd w
  | .kfPush, w => decodeEvent w

/-- The format of an instruction, as the register its word is written to (R90, opcode_table.json "written_to"). -/
def Instr.port : Instr → Port
  | .derive => .cmd
  | .kfread => .cmd
  | .openSession _ _ => .cmd
  | .clear _ _ _ => .cmd
  | .push _ => .kfPush
  | .eos => .kfPush
  | .srcerr _ => .kfPush

/-- `KS` as a bit (R92). -/
def KeySource.toNat : KeySource → Nat
  | .derived => 0
  | .supplied => 1

/-- `DIR` as a bit (R92). -/
def Direction.toNat : Direction → Nat
  | .encrypt => 0
  | .decrypt => 1

/-- The word of an instruction, by the sums of R102. -/
def encode : Instr → Word
  | .derive => 0x00000001
  | .kfread => 0x00000002
  | .openSession ks dir => BitVec.ofNat 32 (0x003 + 0x100 * ks.toNat + 0x200 * dir.toNat)
  | .clear km ckey sess => BitVec.ofNat 32 (0x004 + 0x400 * km.toNat + 0x800 * ckey.toNat + 0x1000 * sess.toNat)
  | .push b => BitVec.ofNat 32 b.toNat
  | .eos => 0x00000100
  | .srcerr c => BitVec.ofNat 32 (0x200 + c.toNat)

/-- The mnemonic of an instruction, as the opcode table spells it. -/
def Instr.mnemonic : Instr → String
  | .derive => "DERIVE"
  | .kfread => "KFREAD"
  | .openSession _ _ => "OPEN"
  | .clear _ _ _ => "CLEAR"
  | .push _ => "PUSH"
  | .eos => "EOS"
  | .srcerr _ => "SRCERR"

/-- One row of the opcode map: a word `w` written to `port` selects the row when `w AND mask = pattern` (R93, R100). -/
structure OpcodeRow where
  mnemonic : String
  port     : Port
  pattern  : Word
  mask     : Word
  deriving DecidableEq, Repr

/-- The opcode map (R93, R100), row by row as the spec prints it. -/
def opcodeTable : List OpcodeRow :=
  [ ⟨"DERIVE", .cmd,    0x00000001, 0xFFFFFFFF⟩,
    ⟨"KFREAD", .cmd,    0x00000002, 0xFFFFFFFF⟩,
    ⟨"OPEN",   .cmd,    0x00000003, 0xFFFFFCFF⟩,
    ⟨"CLEAR",  .cmd,    0x00000004, 0xFFFFE3FF⟩,
    ⟨"PUSH",   .kfPush, 0x00000000, 0xFFFFFF00⟩,
    ⟨"EOS",    .kfPush, 0x00000100, 0xFFFFFFFF⟩,
    ⟨"SRCERR", .kfPush, 0x00000200, 0xFFFFFF00⟩ ]

/-- The word `w` written to port `p` selects the row `r` (R93, R100). -/
def OpcodeRow.selects (r : OpcodeRow) (p : Port) (w : Word) : Bool :=
  r.port == p && (w &&& r.mask) == r.pattern

/-- The 14 legal command words (R94). -/
def legalCommandWords : List Word :=
  [ 0x00000001, 0x00000002,
    0x003, 0x103, 0x203, 0x303,
    0x004, 0x404, 0x804, 0xC04, 0x1004, 0x1404, 0x1804, 0x1C04 ]

/-- The word of an `nbits`-bit table entry: bits above `nbits` are 0. -/
def tableWord (nbits w : Nat) : Word := BitVec.ofNat 32 (w % 2 ^ nbits)

/-- The register a bare table word is taken to be written to. The two formats share words (0x00000001 is `DERIVE` on
`CMD` and `PUSH 1` on `KF_PUSH`), and a bare word carries no offset; a legal command word is taken as one (log 6).
DESIGN CHOICE: only `decodeTableWord` and `withFetchWord` use this; the machine decodes by the offset written. -/
def tablePort (w : Word) : Port :=
  match decodeCmd w, decodeEvent w with
  | .instr _, _ => .cmd
  | _, .instr _ => .kfPush
  | _, _ => .cmd

/-- The instruction the decoder reads from a bare word of the opcode table (log 6). -/
def decodeTableWord (nbits w : Nat) : Option Instr :=
  if 32 < nbits then none
  else match decode (tablePort (tableWord nbits w)) (tableWord nbits w) with
    | .instr i => some i
    | _ => none

end Sys2Proof
end

