-- ==== Sys2Proof/Config.lean ====
section
/-! DEFINITION. The implementation parameters of R7. An OPEN parameter is an opaque constant: nothing in Lean can
see its value, so a claim holds for every value that meets R7's constraint (log 3, log 4). The parameters that the
spec fixes by decision are definitions (log 12). None of them is state (R47). -/

namespace Sys2Proof.Config

/-- `Hgp`, the general-purpose 256-bit hash: a total function of the byte string alone (R7, R9). OPEN. -/
opaque hgp : Bytes → Bytes32

/-- `Hds`, the domain-specific 256-bit hash (R7, R9). OPEN. -/
opaque hds : Bytes → Bytes32

/-- `NMEMB - 2`: the number of member ciphers beyond the two the document promises (R7: 2 <= NMEMB <= 16). OPEN. -/
opaque extraMembers : Fin 15

/-- `NMEMB`, the number of member ciphers (R7). -/
def nmemb : Nat := extraMembers.val + 2

theorem two_le_nmemb : 2 ≤ nmemb := by unfold nmemb; omega

theorem nmemb_le_sixteen : nmemb ≤ 16 := by unfold nmemb; omega

theorem nmemb_pos : 0 < nmemb := by unfold nmemb; omega

/-- The block-cipher family: for each member and each 32-byte key a permutation of the 16-byte blocks. A permutation
is exactly a pair of total functions `Enc`, `Dec` with `Dec m k (Enc m k x) = x` on a finite set (R7, R10). OPEN. -/
opaque cipher : Fin nmemb → Bytes32 → Equiv.Perm Bytes16

/-- `Enc m k x`, encrypt one block (R10). -/
def enc (m : Fin nmemb) (k : Bytes32) (x : Bytes16) : Bytes16 := cipher m k x

/-- `Dec m k y`, decrypt one block (R10). GPKDE never evaluates it; the external codec does. -/
def dec (m : Fin nmemb) (k : Bytes32) (y : Bytes16) : Bytes16 := (cipher m k).symm y

/-- The constraint of R7 on the pair. -/
@[simp] theorem dec_enc (m : Fin nmemb) (k : Bytes32) (x : Bytes16) : dec m k (enc m k x) = x := by
  simp [dec, enc]

/-- `PW_MAX / 4 - 1` (R7: a multiple of 4 with 4 <= PW_MAX <= 65532, so at most 16382). OPEN. -/
opaque extraPwWords : Fin 16383

/-- `PW_MAX`, the password capacity in bytes (R7, R22). -/
def pwMax : Nat := 4 * (extraPwWords.val + 1)

theorem four_le_pwMax : 4 ≤ pwMax := by unfold pwMax; omega

theorem pwMax_le : pwMax ≤ 65532 := by unfold pwMax; have := extraPwWords.isLt; omega

theorem pwMax_mod_four : pwMax % 4 = 0 := by unfold pwMax; omega

/-- `BASE / 4`. OPEN. -/
opaque baseWord : Nat

/-- `BASE`, the bus address of the register space, a multiple of 4 (R7, R60). -/
def base : Nat := 4 * baseWord

/-- The bus address of the byte at offset `off` of the register space (R15, R21). -/
def busAddress (off : Nat) : Nat := base + off

/-- `STRETCH_MEMBER`, the member cipher of the iteration stage: 0 (R7, decision D3). -/
def stretchMember : Fin nmemb := ⟨0, nmemb_pos⟩

/-- `CID_RECOGNISED = {0x00, 0x01}` (R7, R30, decision D5). -/
def cidRecognised (cid : Byte) : Bool := cid == 0x00 || cid == 0x01

/-- `SEL_MAP`, constant 0: every recognised identifier selects the same cipher (R7, R172, decision D4). -/
def selMap (_cid : Byte) : Fin nmemb := ⟨0, nmemb_pos⟩

/-- The block size in bytes, fixed (R7). -/
def blockSize : Nat := 16

/-- The key size in bytes, fixed (R7). -/
def keySize : Nat := 32

/-- What the derivation and the normalizer evaluate: the two hashes and the encryption of the iteration stage.
The functions of R122 to R127 and R153 take it as an argument, so that the spec's own vectors under its toy
configuration can be replayed (D34). -/
structure Primitives where
  hgp        : Bytes → Bytes32
  hds        : Bytes → Bytes32
  stretchEnc : Bytes32 → Bytes16 → Bytes16

/-- The primitives of the block: R7's parameters, with `Enc STRETCH_MEMBER` for the iteration stage (R10). -/
def primitives : Primitives := ⟨hgp, hds, enc stretchMember⟩

end Sys2Proof.Config
end

