-- ==== Sys2Proof/Machine/State.lean ====
section
/-! DEFINITION. The state of GPKDE as plain data: the registers of R21, the session latches of R36, the hidden state
of R40 to R45 (R20: nothing else is state), and two fields of the model's own, the agenda and the bus response
(log 1, log 5). -/

namespace Sys2Proof.Machine

/-- No rule of the spec stops the machine: an exception is an error report (R220) and a refused access is a bus
`ERROR` (R69). So there is no fault reason; nothing raises one (log 19). -/
inductive Fault where
  deriving DecidableEq, Repr

/-- Why the model has no meaning for a step. -/
inductive Refusal where
  /-- An instruction with no meaning yet; raised by no arm of `exec` (safe). -/
  | notModelled (mnemonic : String)
  /-- The external codec reports an error while no session is open; raised by `codecEvent`. R209: "When
  `SESS_VALID = 0` the event cannot occur" (safe: a premise on the codec; log 9). -/
  | codecEventWithoutSession
  deriving DecidableEq, Repr

/-- The six error codes (R221); code 0x00, "no error recorded", is the cleared `ERRCODE`. -/
inductive ErrorCode where
  | unsupported
  | misaligned
  | io
  | padding
  | badCmd
  | badLen
  deriving DecidableEq, Repr

/-- The three codes that the external codec may deliver, 0x02 to 0x04 (R38, R209). -/
inductive CodecError where
  | misaligned
  | io
  | padding
  deriving DecidableEq, Repr

/-- `OP`, the command in flight (R40). -/
inductive Op where
  | none
  | derive
  | kfread
  | openSession
  | clear
  deriving DecidableEq, Repr

/-- `PHASE`, where in its algorithm the block is (R40). -/
inductive Phase where
  | idle
  | base
  | stretch
  | final
  | select
  | kfStream
  | kfFinish
  | clear
  deriving DecidableEq, Repr

/-- `KF_END`, how the key-file stream ended (R45). -/
inductive KfEnd where
  | none
  | eos
  | err (c : Byte)
  deriving DecidableEq, Repr

/-- The session latches (R36). -/
structure Session where
  valid  : Bool
  member : BitVec 4
  key    : Bytes32
  iv     : Bytes16
  dir    : Direction
  deriving DecidableEq, Repr

/-- All latches zero: no session (R36). -/
def Session.closed : Session := ⟨false, 0, zero32, zero16, .encrypt⟩

/-- A host access at a byte offset from `BASE`, of `size` bytes (R15). -/
inductive Access where
  | read (off size : Nat)
  | write (off size : Nat) (v : Word)
  deriving DecidableEq, Repr

/-- The bus response (R15), `none` before the first access. The model's own output field (log 5). -/
inductive Response where
  | none
  | ok
  | okData (v : Word)
  | error
  deriving DecidableEq, Repr

/-- A step of one agent (R18). -/
inductive Action where
  | host (a : Access)
  | sequencer
  | lane (j : LaneId)
  | codec (e : CodecError) (info : Byte)
  | reset
  deriving DecidableEq, Repr

/-- Sparse byte memory: (index, byte) pairs, indexes strictly rising, no entry equal to what an unlisted index reads
as. It holds `PW` (log 8). -/
abbrev Memory := List Host.Cell

/-- The state (R20). -/
structure State where
  /-- `PW` (R22), by byte index. -/
  pw      : Memory
  /-- `KM_LEN.PW_LEN` (R23). -/
  pwLen   : BitVec 16
  /-- `KM_LEN.KF_LEN` (R23). -/
  kfLen   : BitVec 8
  /-- `KFH` (R24). -/
  kfh     : Bytes32
  /-- `MSEED` (R25). -/
  mseed   : Bytes16
  /-- `TSEED` (R26). -/
  tseed   : Bytes32
  /-- `ROUNDS` (R27). -/
  rounds  : Word
  /-- `CKEY` (R28). -/
  ckey    : Bytes32
  /-- `IV` (R29). -/
  iv      : Bytes16
  /-- `CIPHER_ID.CID` (R30). -/
  cid     : Byte
  /-- `STATUS.BUSY` (R32). -/
  busy    : Bool
  /-- `STATUS.DONE` (R32). -/
  done    : Bool
  /-- `STATUS.ERR` (R32). -/
  err     : Bool
  /-- `ERRCODE` (R33). -/
  errcode : Word
  /-- `IRQ_EN.DONE_IE` (R34). -/
  doneIe  : Bool
  /-- `IRQ_EN.ERR_IE` (R34). -/
  errIe   : Bool
  /-- The session latches (R36). -/
  sess    : Session
  /-- `OP` (R40). -/
  op      : Op
  /-- `PHASE` (R40). -/
  phase   : Phase
  /-- `C_KS` (R41). -/
  cKs     : KeySource
  /-- `C_DIR` (R41). -/
  cDir    : Direction
  /-- `C_CLR` (R41). -/
  cClr    : ClearMask
  /-- `BASEBUF` (R42). -/
  baseBuf : Bytes32
  /-- `LANE[0].cnt`, `LANE[1].cnt` (R43). -/
  laneCnt : Vector Word 2
  /-- `KEYTMP` (R44). -/
  keyTmp  : Bytes32
  /-- `KF_ALL` (R45). -/
  kfAll   : Bytes
  /-- `KF_END` (R45). -/
  kfEnd   : KfEnd
  /-- The model's own: the response to the last host access (log 5). -/
  bus     : Response
  /-- The model's own: the steps still to come, in their total order (R77; log 1). -/
  agenda  : List Action
  deriving DecidableEq, Repr

/-- The state right after reset: every bit zero (R48). The model's own fields are empty (DESIGN CHOICE, log 1, log 5). -/
def State.reset : State where
  pw      := []
  pwLen   := 0
  kfLen   := 0
  kfh     := zero32
  mseed   := zero16
  tseed   := zero32
  rounds  := 0
  ckey    := zero32
  iv      := zero16
  cid     := 0
  busy    := false
  done    := false
  err     := false
  errcode := 0
  doneIe  := false
  errIe   := false
  sess    := Session.closed
  op      := .none
  phase   := .idle
  cKs     := .derived
  cDir    := .encrypt
  cClr    := ⟨false, false, false⟩
  baseBuf := zero32
  laneCnt := Vector.replicate 2 0
  keyTmp  := zero32
  kfAll   := []
  kfEnd   := .none
  bus     := .none
  agenda  := []

end Sys2Proof.Machine
end

