-- ==== Sys2Proof/Machine/Ops.lean ====
section
/-! DEFINITION. The named operations over memory, registers and errors: byte order (R13, R62), the sparse memory that
holds `PW` (log 8), the byte-array registers (R62, R64), the bus response (R15), the session latches (R36), issuing a
command (R91, R96), taking an exception (R224 to R227) and returning from one (R193, R229). -/

namespace Sys2Proof.Machine

/-! ## Byte order -/

/-- `le32(b0, b1, b2, b3)`: byte 0 in bits 7:0 (R13, R62). -/
def le32 (b0 b1 b2 b3 : Byte) : Word :=
  BitVec.ofNat 32 (b0.toNat + 256 * b1.toNat + 65536 * b2.toNat + 16777216 * b3.toNat)

/-- Byte `k` of a bus word: bits `8k+7` to `8k` (R62, R64). -/
def byteOfWord (v : Word) (k : Nat) : Byte := BitVec.ofNat 8 (field v (8 * k + 7) (8 * k))

/-! ## Sparse memory -/

namespace Memory

/-- What an unlisted byte reads as: the reset contents, zero (R22, R48). -/
def unlisted : Byte := 0

/-- The byte at an index. -/
def read : Memory → Nat → Byte
  | [], _ => unlisted
  | (k, b) :: m, a => if k = a then b else read m a

/-- Store a byte, keeping the canonical form: writing what an unlisted byte reads as removes the entry. -/
def write : Memory → Nat → Byte → Memory
  | [], a, b => if b = unlisted then [] else [(a, b)]
  | (k, c) :: m, a, b =>
    if a < k then (if b = unlisted then (k, c) :: m else (a, b) :: (k, c) :: m)
    else if a = k then (if b = unlisted then m else (a, b) :: m)
    else (k, c) :: write m a b

/-- The canonical form: indexes strictly rising, no entry equal to what an unlisted index reads as. -/
abbrev wf (m : Memory) : Prop :=
  m.Pairwise (fun x y => x.1 < y.1) ∧ ∀ c ∈ m, c.2 ≠ unlisted

end Memory

/-! ## Byte-array registers -/

/-- The six byte-array registers (R62). -/
inductive ByteReg where
  | mseed
  | tseed
  | kfh
  | ckey
  | iv
  | pw
  deriving DecidableEq, Repr

/-- The size of a byte-array register in bytes (R21). -/
def ByteReg.size : ByteReg → Nat
  | .mseed => 16
  | .tseed => 32
  | .kfh => 32
  | .ckey => 32
  | .iv => 16
  | .pw => Config.pwMax

/-- Byte `i` of a byte-array register (R62). Callers stay below the register's size (R66); above it the answer is 0. -/
def State.readByte (s : State) (r : ByteReg) (i : Nat) : Byte :=
  match r with
  | .mseed => s.mseed[i]?.getD 0
  | .tseed => s.tseed[i]?.getD 0
  | .kfh => s.kfh[i]?.getD 0
  | .ckey => s.ckey[i]?.getD 0
  | .iv => s.iv[i]?.getD 0
  | .pw => Memory.read s.pw i

/-- Store byte `i` of a byte-array register, the other bytes unchanged (R64). -/
def State.writeByte (s : State) (r : ByteReg) (i : Nat) (b : Byte) : State :=
  match r with
  | .mseed => { s with mseed := s.mseed.setIfInBounds i b }
  | .tseed => { s with tseed := s.tseed.setIfInBounds i b }
  | .kfh => { s with kfh := s.kfh.setIfInBounds i b }
  | .ckey => { s with ckey := s.ckey.setIfInBounds i b }
  | .iv => { s with iv := s.iv.setIfInBounds i b }
  | .pw => { s with pw := Memory.write s.pw i b }

/-- The word at byte `i` of a byte-array register: `le32` of four bytes (R62, R63). -/
def State.readWord (s : State) (r : ByteReg) (i : Nat) : Word :=
  le32 (s.readByte r i) (s.readByte r (i + 1)) (s.readByte r (i + 2)) (s.readByte r (i + 3))

/-- Store a word at byte `i` of a byte-array register (R64). -/
def State.writeWord (s : State) (r : ByteReg) (i : Nat) (v : Word) : State :=
  (((s.writeByte r i (byteOfWord v 0)).writeByte r (i + 1) (byteOfWord v 1)).writeByte r (i + 2)
    (byteOfWord v 2)).writeByte r (i + 3) (byteOfWord v 3)

/-! ## Bus response -/

/-- Answer a host access (R15). -/
def State.respond (s : State) (r : Response) : State := { s with bus := r }

/-! ## Session latches -/

/-- Zero all session latches (R173, R190). -/
def State.closeSession (s : State) : State := { s with sess := Session.closed }

/-! ## Errors: taking an exception -/

/-- The code of an error (R221). -/
def ErrorCode.code : ErrorCode → Byte
  | .unsupported => 0x01
  | .misaligned => 0x02
  | .io => 0x03
  | .padding => 0x04
  | .badCmd => 0x10
  | .badLen => 0x11

/-- `ERRCODE = INFO·256 + CODE` (R221, R224). -/
def errcodeWord (e : ErrorCode) (info : Byte) : Word := BitVec.ofNat 32 (info.toNat * 256 + e.code.toNat)

/-- Taking an exception: record error `(code, info)` (R224). `ERR` is set in every case; `ERRCODE` keeps the first
error since `ERR` was last cleared. No control is transferred and nothing else is saved (R220, R228). -/
def State.recordError (s : State) (e : ErrorCode) (info : Byte) : State :=
  { s with err := true, errcode := if s.err then s.errcode else errcodeWord e info }

/-- Returning from an exception: the host acknowledges (R193, R229). Written bit 1 clears `DONE`; written bit 2 clears
`ERR` and with it `ERRCODE`; every other bit is ignored (R32). -/
def State.acknowledge (s : State) (v : Word) : State :=
  { s with
    done := if bit v 1 then false else s.done
    err := if bit v 2 then false else s.err
    errcode := if bit v 2 then 0 else s.errcode }

/-! ## Completion -/

/-- What both completions do: no command in flight, the hidden datapath state zero (R225, R46). `DONE` is left. -/
def State.endCommand (s : State) : State :=
  { s with
    busy := false, op := .none, phase := .idle
    cKs := .derived, cDir := .encrypt, cClr := ⟨false, false, false⟩
    baseBuf := zero32, laneCnt := Vector.replicate 2 0, keyTmp := zero32
    kfAll := [], kfEnd := .none }

/-- Success completion (R225). -/
def State.succeed (s : State) : State := { s.endCommand with done := true }

/-- Error completion (R226): the error is recorded and `DONE` stays 0. -/
def State.fail (s : State) (e : ErrorCode) (info : Byte) : State :=
  { (s.recordError e info).endCommand with done := false }

/-- Issue-time rejection (R227): `DONE` has been cleared by R91 step 1; the error is recorded, nothing is issued. -/
def State.reject (s : State) (e : ErrorCode) (info : Byte) : State := s.recordError e info

/-! ## Issuing a command -/

/-- Issue (R96): `BUSY`, `OP` and the latched command fields; `PHASE` is the opcode's own initial phase. -/
def State.issue (s : State) (op : Op) (phase : Phase) (ks : KeySource) (dir : Direction) (clr : ClearMask) : State :=
  { s with busy := true, op := op, phase := phase, cKs := ks, cDir := dir, cClr := clr }

/-- An accepted `CMD` write before its word is looked at: bus `OK`, and `DONE` cleared (R91 step 1). -/
def State.accepted (s : State) : State := { s with done := false, bus := .ok }

/-- A write to `CMD` (R91): refused by the busy rule (R68); otherwise accepted, then `body` (steps 3 to 5). -/
def State.commandWrite (s : State) (body : State → State) : Host.Outcome State Fault Refusal :=
  if s.busy then .next (s.respond .error)
  else .next (body s.accepted)

/-- A write of a stream event to `KF_PUSH` (R72): accepted exactly when a `KFREAD` awaits it. -/
def State.eventWrite (s : State) (body : State → State) : Host.Outcome State Fault Refusal :=
  if s.op = .kfread ∧ s.phase = .kfStream then .next (body (s.respond .ok))
  else .next (s.respond .error)

end Sys2Proof.Machine
end

