-- ==== Sys2Proof/Machine/Flags.lean ====
section
/-! DEFINITION. The control and status words as the host reads and writes them (R23, R30, R32 to R34), the interrupt
line (R37, R232) and the cipher port (R76). -/

namespace Sys2Proof.Machine

/-- `STATUS` as read (R32): `BUSY`, `DONE`, `ERR`, and the mirrors `SESSION` and `MEMBER` of the session latches. -/
def State.statusWord (s : State) : Word :=
  BitVec.ofNat 32 (s.busy.toNat + 2 * s.done.toNat + 4 * s.err.toNat + 8 * s.sess.valid.toNat + 256 * s.sess.member.toNat)

/-- `KM_LEN` as read (R23). -/
def State.kmLenWord (s : State) : Word := BitVec.ofNat 32 (s.pwLen.toNat + 65536 * s.kfLen.toNat)

/-- `CIPHER_ID` as read (R30). -/
def State.cipherIdWord (s : State) : Word := BitVec.ofNat 32 s.cid.toNat

/-- `IRQ_EN` as read (R34). -/
def State.irqEnWord (s : State) : Word := BitVec.ofNat 32 (2 * s.doneIe.toNat + 4 * s.errIe.toNat)

/-- `ERRCODE.CODE` (R33). -/
def State.errCodeField (s : State) : Byte := lowByte s.errcode

/-- `ERRCODE.INFO` (R33). -/
def State.errInfoField (s : State) : Byte := BitVec.ofNat 8 (field s.errcode 15 8)

/-- Host write of `IRQ_EN` (R34, R64, R194). -/
def State.writeIrqEn (s : State) (v : Word) : State := { s with doneIe := bit v 1, errIe := bit v 2 }

/-- Host write of `ROUNDS` (R27, R64). -/
def State.writeRounds (s : State) (v : Word) : State := { s with rounds := v }

/-- Host write of `KM_LEN` (R23, R64): bits 31:24 are ignored. -/
def State.writeKmLen (s : State) (v : Word) : State :=
  { s with pwLen := BitVec.ofNat 16 (field v 15 0), kfLen := BitVec.ofNat 8 (field v 23 16) }

/-- Host write of `CIPHER_ID` (R30, R64): bits 31:8 are ignored. -/
def State.writeCipherId (s : State) (v : Word) : State := { s with cid := lowByte v }

/-- The output `IRQ` (R37, R232): level-sensitive, no latch of its own. -/
def State.irq (s : State) : Bool := (s.done && s.doneIe) || (s.err && s.errIe)

/-- What the cipher port presents to the external codec (R76). -/
structure CipherPort where
  valid     : Bool
  member    : BitVec 4
  key       : Bytes32
  iv        : Bytes16
  dir       : Direction
  blockSize : Nat
  deriving DecidableEq, Repr

/-- The cipher port: the session latches and the constant block size (R76). -/
def State.cipherPort (s : State) : CipherPort :=
  ⟨s.sess.valid, s.sess.member, s.sess.key, s.sess.iv, s.sess.dir, Config.blockSize⟩

end Sys2Proof.Machine
end

