-- ==== Sys2Proof/Machine/Bus.lean ====
section
/-! DEFINITION. The register map (R21) and the host's reads and writes of registers that store something
(R63 to R68). Writes to `CMD` and `KF_PUSH` are in Machine/Agents.lean. -/

namespace Sys2Proof.Machine

/-- The registers of the map (R21). -/
inductive Reg where
  | cmd
  | status
  | errcode
  | irqEn
  | rounds
  | kmLen
  | cipherId
  | kfPush
  | array (r : ByteReg)
  deriving DecidableEq, Repr

/-- One row of the register map: `size` bytes at `offset`. -/
structure RegRow where
  reg    : Reg
  offset : Nat
  size   : Nat
  deriving DecidableEq, Repr

/-- The register map (R21), row by row. -/
def registerMap : List RegRow :=
  [ ⟨.cmd,          0x000, 4⟩,
    ⟨.status,       0x004, 4⟩,
    ⟨.errcode,      0x008, 4⟩,
    ⟨.irqEn,        0x00C, 4⟩,
    ⟨.rounds,       0x010, 4⟩,
    ⟨.kmLen,        0x014, 4⟩,
    ⟨.cipherId,     0x018, 4⟩,
    ⟨.kfPush,       0x01C, 4⟩,
    ⟨.array .mseed, 0x020, 16⟩,
    ⟨.array .tseed, 0x040, 32⟩,
    ⟨.array .kfh,   0x060, 32⟩,
    ⟨.array .ckey,  0x080, 32⟩,
    ⟨.array .iv,    0x0A0, 16⟩,
    ⟨.array .pw,    0x100, Config.pwMax⟩ ]

/-- The byte at offset `off` lies in this row. -/
def RegRow.holds (r : RegRow) (off : Nat) : Bool := decide (r.offset ≤ off) && decide (off < r.size + r.offset)

/-- The offset of a register (R21). -/
def Reg.offset : Reg → Nat
  | .cmd => 0x000
  | .status => 0x004
  | .errcode => 0x008
  | .irqEn => 0x00C
  | .rounds => 0x010
  | .kmLen => 0x014
  | .cipherId => 0x018
  | .kfPush => 0x01C
  | .array .mseed => 0x020
  | .array .tseed => 0x040
  | .array .kfh => 0x060
  | .array .ckey => 0x080
  | .array .iv => 0x0A0
  | .array .pw => 0x100

/-- The size of a register in bytes (R21). -/
def Reg.size : Reg → Nat
  | .array r => r.size
  | _ => 4

/-- The register an access reaches and the byte index inside it; none where width, alignment or the map refuse the
access (R65, R66). -/
def busTarget (off size : Nat) : Option (Reg × Nat) :=
  if size ≠ 4 ∨ off % 4 ≠ 0 then none
  else match registerMap.find? (fun r => r.holds off) with
    | some r => some (r.reg, off - r.offset)
    | none => none

/-- The word a host read of a register gives; none where the register is write-only (R63, R67). -/
def State.readReg (s : State) (r : Reg) (i : Nat) : Option Word :=
  match r with
  | .cmd => none
  | .status => some s.statusWord
  | .errcode => some s.errcode
  | .irqEn => some s.irqEnWord
  | .rounds => some s.rounds
  | .kmLen => some s.kmLenWord
  | .cipherId => some s.cipherIdWord
  | .kfPush => none
  | .array a => some (s.readWord a i)

/-- `MemRead(off, size)` (R63): the response; the state is not changed. -/
def State.busRead (s : State) (off size : Nat) : Response :=
  match busTarget off size with
  | none => .error
  | some (r, i) =>
    match s.readReg r i with
    | some v => .okData v
    | none => .error

/-- The effect of an accepted host write to a register that stores something; none where the write is refused because
the register is read-only (R64, R67). `CMD` and `KF_PUSH` store nothing (R31, R35) and never come here. -/
def State.writeReg (s : State) (r : Reg) (i : Nat) (v : Word) : Option State :=
  match r with
  | .cmd => none
  | .status => some (s.acknowledge v)
  | .errcode => none
  | .irqEn => some (s.writeIrqEn v)
  | .rounds => some (s.writeRounds v)
  | .kmLen => some (s.writeKmLen v)
  | .cipherId => some (s.writeCipherId v)
  | .kfPush => none
  | .array a => some (s.writeWord a i v)

/-- A host write to a register that stores something: refused while `BUSY = 1` (R68), or by the access rights (R67). -/
def State.registerWrite (s : State) (r : Reg) (i : Nat) (v : Word) : State :=
  if s.busy then s.respond .error
  else match s.writeReg r i v with
    | some t => t.respond .ok
    | none => s.respond .error

end Sys2Proof.Machine
end

