-- ==== Sys2Proof/Machine/Clear.lean ====
section
/-! DEFINITION. `CLEAR` (R190) and its clear step (R192). -/

namespace Sys2Proof.Machine

/-- The `CMD` write of `CLEAR` (R91, R190): issue with `PHASE <- P_CLEAR` (R191). -/
def execClear (km ckey sess : Bool) (s : State) : Host.Outcome State Fault Refusal :=
  s.commandWrite fun t => t.issue .clear .clear .derived .encrypt ⟨km, ckey, sess⟩

/-- The three conditional groups of writes of `CLEAR` (R190). `CLR_KM` zeroes all of `PW`, not only the first `PW_LEN`
bytes. -/
def State.discard (s : State) (m : ClearMask) : State :=
  { s with
    pw := if m.km then [] else s.pw
    pwLen := if m.km then 0 else s.pwLen
    kfLen := if m.km then 0 else s.kfLen
    kfh := if m.km then zero32 else s.kfh
    ckey := if m.ckey then zero32 else s.ckey
    sess := if m.sess then Session.closed else s.sess }

/-- Clear step (R192). -/
def State.clearStep (s : State) : State := (s.discard s.cClr).succeed

end Sys2Proof.Machine
end

