-- ==== Sys2Proof/Machine/Kdf.lean ====
section
/-! DEFINITION. The functions of the key derivation (R122 to R127), over any primitives. -/

namespace Sys2Proof.Machine

open Config (Primitives)

/-- `baseHash` (R122): exactly one branch applies, tested in this order. The key-file hash is absent or 32 bytes; the
password is absent when it is empty (R121, decision D6). -/
def baseHash (P : Primitives) (pw : Bytes) (kf : Option Bytes32) : Bytes32 :=
  match kf with
  | none => P.hgp pw
  | some h => if pw.isEmpty then h else P.hds ((P.hgp pw).toList ++ h.toList)

/-- Half `j` of a 32-byte buffer: bytes `16j` to `16j+15` (R123, R137). -/
def half (buf : Bytes32) (j : LaneId) : Bytes16 := Vector.ofFn fun i => buf[16 * j.val + i.val]

/-- Replace half `j` of a 32-byte buffer, the other half unchanged (R131). -/
def setHalf (buf : Bytes32) (j : LaneId) (x : Bytes16) : Bytes32 :=
  Vector.ofFn fun i => if i.val / 16 = j.val then x[i.val % 16] else buf[i.val]

/-- `out0 ‖ out1`, half 0 first (R126). -/
def joinHalves (out0 out1 : Bytes16) : Bytes32 :=
  Vector.ofFn fun i => if i.val / 16 = 0 then out0[i.val % 16] else out1[i.val % 16]

/-- `stretch(ts, h, n)` (R124): `Enc` under key `ts` applied `n` times. -/
def stretch (P : Primitives) (ts : Bytes32) (h : Bytes16) : Nat → Bytes16
  | 0 => h
  | n + 1 => P.stretchEnc ts (stretch P ts h n)

/-- Steps 4 and 5 of the derivation (R126): `tk = Hgp(inter)`, then `Hds(mseed ‖ tk)`. -/
def finalKey (P : Primitives) (mseed : Bytes16) (inter : Bytes32) : Bytes32 :=
  P.hds (mseed.toList ++ (P.hgp inter.toList).toList)

/-- `compute(pw, kf, mseed, ts, n)`, the whole derivation (R127). -/
def compute (P : Primitives) (pw : Bytes) (kf : Option Bytes32) (mseed : Bytes16) (ts : Bytes32) (n : Nat) : Bytes32 :=
  finalKey P mseed
    (joinHalves (stretch P ts (half (baseHash P pw kf) 0) n) (stretch P ts (half (baseHash P pw kf) 1) n))

end Sys2Proof.Machine
end

