-- ==== Sys2Proof/Machine/Operands.lean ====
section
/-! DEFINITION. The operands a command reads from the registers (R95, R120, R121, R128) and the lane registers
(R42, R43). -/

namespace Sys2Proof.Machine

/-- `PW[0..PW_LEN)` (R22, R120): bytes at and above `PW_LEN` are not read. -/
def State.password (s : State) : Bytes := (List.range s.pwLen.toNat).map (Memory.read s.pw)

/-- The key-file hash operand: absent when `KF_LEN = 0`, present otherwise (R121); its content is ignored when absent
(R24). The only legal non-zero length is 32, checked at issue (R128; log 15). -/
def State.keyFile (s : State) : Option Bytes32 := if s.kfLen.toNat = 0 then none else some s.kfh

/-- `lengthsLegal(KM_LEN)` (R128). -/
def State.lengthsLegal (s : State) : Bool :=
  (s.kfLen.toNat == 0 || s.kfLen.toNat == 32) && decide (s.pwLen.toNat ≤ Config.pwMax)

/-- Step 1 of the derivation on the registers (R130). -/
def State.baseOfKeyMaterial (s : State) : Bytes32 := baseHash Config.primitives s.password s.keyFile

/-- `compute` on the registers (R120, R127). -/
def State.derivedKey (s : State) : Bytes32 :=
  compute Config.primitives s.password s.keyFile s.mseed s.tseed s.rounds.toNat

/-- `LANE[j].blk = BASEBUF[16j..16j+16)` (R42). -/
def State.laneBlk (s : State) (j : LaneId) : Bytes16 := half s.baseBuf j

/-- Lane `j` has finished (R132). -/
def State.laneFinished (s : State) (j : LaneId) : Bool := s.phase == .stretch && s.laneCnt[j] == 0

end Sys2Proof.Machine
end

