-- ==== Sys2Proof/Machine/Derive.lean ====
section
/-! DEFINITION. `DERIVE` (R120) and the steps of the derivation (R129 to R134), which `OPEN ks=0` shares. -/

namespace Sys2Proof.Machine

/-- The `CMD` write of `DERIVE` (R91, R120): the length check (R128), then issue with `PHASE <- P_BASE` (R129). -/
def execDerive (s : State) : Host.Outcome State Fault Refusal :=
  s.commandWrite fun t =>
    if t.lengthsLegal then t.issue .derive .base .derived .encrypt ⟨false, false, false⟩
    else t.reject .badLen t.kfLen

/-- Base-and-fork step (R130): steps 1 and 2 of the derivation and the fork of the lanes. -/
def State.baseForkStep (s : State) : State :=
  { s with baseBuf := s.baseOfKeyMaterial, laneCnt := Vector.replicate 2 s.rounds, phase := .stretch }

/-- Lane step of lane `j` (R131): one `Enc STRETCH_MEMBER` under `TSEED` on the lane's own half. -/
def State.laneEncStep (s : State) (j : LaneId) : State :=
  { s with
    baseBuf := setHalf s.baseBuf j (Config.primitives.stretchEnc s.tseed (s.laneBlk j))
    laneCnt := s.laneCnt.set j (s.laneCnt[j] - 1) }

/-- Join step (R133): steps 4 and 5 of the derivation; `tk` is not stored, `BASEBUF` is zeroed. -/
def State.joinStep (s : State) : State :=
  { s with keyTmp := finalKey Config.primitives s.mseed s.baseBuf, baseBuf := zero32, phase := .final }

/-- Final step (R134): `DERIVE` commits the key and completes; `OPEN` goes on to its select step. -/
def State.finalStep (s : State) : State :=
  if s.op = .derive then { s with ckey := s.keyTmp }.succeed
  else { s with phase := .select }

end Sys2Proof.Machine
end

