-- ==== Sys2Proof/Machine/Normalize.lean ====
section
/-! DEFINITION. The functions of the key-file hash normalizer (R151 to R155), over any primitives. -/

namespace Sys2Proof.Machine

open Config (Primitives)

/-- `hexval` (R152): ASCII `0-9`, `a-f`, `A-F` (the alphabet is the spec's decision D21; log 12). -/
def hexval (b : Byte) : Option Nat :=
  if 0x30 ≤ b.toNat ∧ b.toNat ≤ 0x39 then some (b.toNat - 0x30)
  else if 0x61 ≤ b.toNat ∧ b.toNat ≤ 0x66 then some (b.toNat - 0x61 + 10)
  else if 0x41 ≤ b.toNat ∧ b.toNat ≤ 0x46 then some (b.toNat - 0x41 + 10)
  else none

/-- Decode pairs of hexadecimal characters, the first character of each pair the high nibble (R152). -/
def hexPairs : Bytes → Option Bytes
  | [] => some []
  | [_] => none
  | hi :: lo :: t =>
    match hexval hi, hexval lo, hexPairs t with
    | some h, some l, some d => some (BitVec.ofNat 8 (16 * h + l) :: d)
    | _, _, _ => none

/-- The byte string of length 32 as a `Bytes32`; none for any other length. -/
def toBytes32 (s : Bytes) : Option Bytes32 :=
  if h : s.length = 32 then some ⟨s.toArray, by simpa using h⟩ else none

/-- `hexDecode32` (R152): 64 characters to 32 bytes, or none. -/
def hexDecode32 (t : Bytes) : Option Bytes32 :=
  match hexPairs t with
  | some d => toBytes32 d
  | none => none

/-- What `normalize` answers (R153). -/
inductive Normalized where
  | ok (h : Bytes32)
  | error (c : Byte)
  deriving DecidableEq, Repr

/-- The hashing branch of `normalize` (R153): the whole stream in one message (R155), unless the source failed. A
stream that has not ended has no result; the finish step is enabled only after it ended (R160), and for the value
`none` this takes the end-of-stream row. -/
def normalizeHash (P : Primitives) (s : Bytes) : KfEnd → Normalized
  | .err c => .error c
  | _ => .ok (P.hds s)

/-- `normalize(s, end)` (R153): the count is of the initial read of up to 65 bytes. -/
def normalize (P : Primitives) (s : Bytes) (e : KfEnd) : Normalized :=
  let n := min s.length 65
  if n = 32 then
    match toBytes32 s with
    | some h => .ok h
    | none => normalizeHash P s e
  else if n = 64 then
    match hexDecode32 s with
    | some d => .ok d
    | none => normalizeHash P s e
  else normalizeHash P s e

end Sys2Proof.Machine
end

