-- ==== Sys2Proof/Machine/Kfread.lean ====
section
/-! DEFINITION. `KFREAD` (R150), its three stream events (R157 to R159) and its finish step (R160). -/

namespace Sys2Proof.Machine

/-- The `CMD` write of `KFREAD` (R91, R150): issue with an empty stream and `PHASE <- P_KF_STREAM` (R156). -/
def execKfread (s : State) : Host.Outcome State Fault Refusal :=
  s.commandWrite fun t =>
    { t.issue .kfread .kfStream .derived .encrypt ⟨false, false, false⟩ with kfAll := [], kfEnd := .none }

/-- `PUSH b` (R157): the next byte of the key file. -/
def execPush (b : Byte) (s : State) : Host.Outcome State Fault Refusal :=
  s.eventWrite fun t => { t with kfAll := t.kfAll ++ [b] }

/-- `EOS` (R158): the source is exhausted; the stream is closed. -/
def execEos (s : State) : Host.Outcome State Fault Refusal :=
  s.eventWrite fun t => { t with kfEnd := .eos, phase := .kfFinish }

/-- `SRCERR c` (R159): the source failed with code `c`; the stream is closed. -/
def execSrcerr (c : Byte) (s : State) : Host.Outcome State Fault Refusal :=
  s.eventWrite fun t => { t with kfEnd := .err c, phase := .kfFinish }

/-- Finish step (R160): store the normalized hash and complete, or complete with `E_IO` and no partial output. -/
def State.kfFinishStep (s : State) : State :=
  match normalize Config.primitives s.kfAll s.kfEnd with
  | .ok h => { s with kfh := h, kfLen := 32 }.succeed
  | .error c => s.fail .io c

end Sys2Proof.Machine
end

