-- ==== Sys2Proof/Machine/Open.lean ====
section
/-! DEFINITION. `OPEN` (R170), the cipher selector (R171) and the select step (R174). -/

namespace Sys2Proof.Machine

/-- The cipher instance that `select` constructs (R171). -/
structure CipherInstance where
  member    : Fin Config.nmemb
  key       : Bytes32
  blockSize : Nat
  deriving DecidableEq, Repr

/-- `select(cid, key)` (R171): none is `Unsupported`. The key is neither tested nor transformed. -/
def select (cid : Byte) (key : Bytes32) : Option CipherInstance :=
  if Config.cidRecognised cid then some ⟨Config.selMap cid, key, Config.blockSize⟩ else none

/-- Issue of `OPEN` (R173): an earlier session is closed; the supplied key is copied to `KEYTMP`, or the derivation
starts. -/
def State.openIssue (s : State) (ks : KeySource) (dir : Direction) : State :=
  match ks with
  | .supplied =>
    { (s.issue .openSession .select .supplied dir ⟨false, false, false⟩).closeSession with keyTmp := s.ckey }
  | .derived => (s.issue .openSession .base .derived dir ⟨false, false, false⟩).closeSession

/-- The `CMD` write of `OPEN` (R91, R170): the lengths are checked only when the key is to be derived (R91 step 4). -/
def execOpenSession (ks : KeySource) (dir : Direction) (s : State) : Host.Outcome State Fault Refusal :=
  s.commandWrite fun t =>
    if ks = .derived ∧ t.lengthsLegal = false then t.reject .badLen t.kfLen
    else t.openIssue ks dir

/-- Part (1) of the select step (R174): a derived key is committed to `CKEY`. -/
def State.commitDerivedKey (s : State) : State :=
  match s.cKs with
  | .derived => { s with ckey := s.keyTmp }
  | .supplied => s

/-- Select step (R174): commit a derived key; then present the instance to the codec and complete, or complete with
`E_UNSUPPORTED` (R175). -/
def State.selectStep (s : State) : State :=
  match select s.cid s.keyTmp with
  | some inst =>
    { s.commitDerivedKey with
      sess := ⟨true, BitVec.ofNat 4 inst.member.val, inst.key, s.iv, s.cDir⟩ }.succeed
  | none => s.commitDerivedKey.fail .unsupported s.cid

end Sys2Proof.Machine
end

