-- ==== Sys2Proof/Machine/Dispatch.lean ====
section
/-! DEFINITION. One arm per instruction: what the host write of its word does. -/

namespace Sys2Proof.Machine

def exec (i : Instr) (s : State) : Host.Outcome State Fault Refusal :=
  match i with
  | .derive => Sys2Proof.Machine.execDerive s
  | .kfread => Sys2Proof.Machine.execKfread s
  | .openSession ks dir => Sys2Proof.Machine.execOpenSession ks dir s
  | .clear km ckey sess => Sys2Proof.Machine.execClear km ckey sess s
  | .push b => Sys2Proof.Machine.execPush b s
  | .eos => Sys2Proof.Machine.execEos s
  | .srcerr c => Sys2Proof.Machine.execSrcerr c s

end Sys2Proof.Machine
end

