-- ==== Sys2Proof/Machine/Agents.lean ====
section
/-! DEFINITION. The steps of the agents (R18): host accesses, with commands and stream events decoded and run
(R64, R91, R72); the sequencer (R40); the lanes (R131); the external codec (R209); reset (R250). -/

namespace Sys2Proof.Machine

/-! ## Host -/

/-- A write to `CMD` (R91): a legal word runs its instruction; an illegal one records `E_BADCMD` with its opcode byte
and issues nothing. -/
def cmdPortWrite (v : Word) (s : State) : Host.Outcome State Fault Refusal :=
  match decode .cmd v with
  | .instr i => exec i s
  | .illegalCommand opcode => s.commandWrite fun t => t.reject .badCmd opcode
  | .noEvent => .next (s.respond .error)

/-- A write to `KF_PUSH` (R72): a word that encodes no event is never accepted (R101). -/
def eventPortWrite (v : Word) (s : State) : Host.Outcome State Fault Refusal :=
  match decode .kfPush v with
  | .instr i => exec i s
  | _ => .next (s.respond .error)

/-- A host access (R63, R64). -/
def hostAccess (a : Access) (s : State) : Host.Outcome State Fault Refusal :=
  match a with
  | .read off size => .next (s.respond (s.busRead off size))
  | .write off size v =>
    match busTarget off size with
    | none => .next (s.respond .error)
    | some (.cmd, _) => cmdPortWrite v s
    | some (.kfPush, _) => eventPortWrite v s
    | some (r, i) => .next (s.registerWrite r i v)

/-! ## Sequencer -/

/-- `DERIVE` and `OPEN` share the derivation (R130, R133). -/
def Op.derives : Op → Bool
  | .derive => true
  | .openSession => true
  | _ => false

/-- The sequencer's step, none where it has none enabled (R130, R133, R134, R160, R174, R192). -/
def State.sequencerStep (s : State) : Option State :=
  match s.phase with
  | .idle => none
  | .base => if s.op.derives then some s.baseForkStep else none
  | .stretch => if s.op.derives ∧ s.laneCnt[0] = 0 ∧ s.laneCnt[1] = 0 then some s.joinStep else none
  | .final => if s.op.derives then some s.finalStep else none
  | .select => if s.op = .openSession then some s.selectStep else none
  | .kfStream => none
  | .kfFinish => if s.op = .kfread then some s.kfFinishStep else none
  | .clear => if s.op = .clear then some s.clearStep else none

/-! ## Lanes -/

/-- The step of lane `j`, none where it is not enabled (R131). -/
def State.laneStep (s : State) (j : LaneId) : Option State :=
  if s.phase = .stretch ∧ s.laneCnt[j] ≠ 0 then some (s.laneEncStep j) else none

/-! ## External codec -/

/-- A codec error as an error code (R209, R221). -/
def CodecError.toErrorCode : CodecError → ErrorCode
  | .misaligned => .misaligned
  | .io => .io
  | .padding => .padding

/-- Codec-error step (R209): enabled while a session is open; recorded as delivered, nothing else changes. -/
def codecEvent (e : CodecError) (info : Byte) (s : State) : Host.Outcome State Fault Refusal :=
  if s.sess.valid then .next (s.recordError e.toErrorCode info)
  else .refused .codecEventWithoutSession

/-! ## Reset -/

/-- The reset event (R250): every bit of state takes its reset value; a command in flight is abandoned (R251). What the
outside world still has to do is not the block's state and stays (log 17). -/
def State.resetEvent (s : State) : State := { State.reset with agenda := s.agenda }

/-! ## One step of one agent -/

/-- One action of the agenda. An internal agent that has no enabled step passes (log 1). -/
def act (a : Action) (s : State) : Host.Outcome State Fault Refusal :=
  match a with
  | .host acc => hostAccess acc s
  | .sequencer => .next (s.sequencerStep.getD s)
  | .lane j => .next ((s.laneStep j).getD s)
  | .codec e info => codecEvent e info s
  | .reset => .next s.resetEvent

/-- What the block does by itself when the agenda says nothing: the sequencer if it is enabled, else lane 0, else
lane 1, else nothing (one of the orders R18 allows; DESIGN CHOICE, log 2). -/
def State.autoStep (s : State) : State :=
  match s.sequencerStep with
  | some t => t
  | none =>
    match s.laneStep 0 with
    | some t => t
    | none => (s.laneStep 1).getD s

/-! ## Fetch -/

/-- The offset of the register a word is written to (R90, R93, R100). -/
def portOffset : Port → Nat
  | .cmd => 0x000
  | .kfPush => 0x01C

/-- The host write that delivers the word `w` to port `p`. -/
def portWrite (p : Port) (w : Word) : Action := .host (.write (portOffset p) 4 w)

end Sys2Proof.Machine
end

