-- ==== Sys2Proof/Machine/Step.lean ====
section
/-! DEFINITION. One step of the machine: the next action of the agenda, or, when it is empty, the block's own agents
(log 1, log 2). -/

namespace Sys2Proof.Machine

/-- One atomic step of one agent (R18, R70, R77). -/
def step (s : State) : Host.Outcome State Fault Refusal :=
  match s.agenda with
  | [] => .next s.autoStep
  | a :: rest => act a { s with agenda := rest }

/-- The word of an opcode-table row put where the next step takes its instruction from: as a host write at the front of
the agenda, to the register whose format the word has (log 6, log 7). -/
def State.withFetchWord (s : State) (nbits w : Nat) : State :=
  { s with agenda := portWrite (tablePort (tableWord nbits w)) (tableWord nbits w) :: s.agenda }

end Sys2Proof.Machine
end

