-- ==== Sys2Proof/Machine/Codec.lean ====
section
/-! DEFINITION. The external stream codec as the spec transcribes it (R200 to R208, R210): pure functions of what the
cipher port presents. The codec is NOT part of GPKDE (R6, R200); no step of the machine uses these functions, and the
block's own share is `codecEvent` (R209). The CBC formulas and the padding check are general knowledge (R201, R207):
PRESUMED, log 10. -/

namespace Sys2Proof.Machine

/-- XOR byte by byte over 16 bytes (R201). -/
def xorBlock (a b : Bytes16) : Bytes16 := Vector.ofFn fun i => a[i] ^^^ b[i]

/-- CBC encryption: `C[i] = Enc (P[i] XOR C[i-1])`, `C[0]` the chaining value (R201). -/
def cbcEncrypt (enc : Bytes16 → Bytes16) : Bytes16 → List Bytes16 → List Bytes16
  | _, [] => []
  | chain, p :: ps => enc (xorBlock p chain) :: cbcEncrypt enc (enc (xorBlock p chain)) ps

/-- CBC decryption: `P[i] = (Dec C[i]) XOR C[i-1]` (R201). -/
def cbcDecrypt (dec : Bytes16 → Bytes16) : Bytes16 → List Bytes16 → List Bytes16
  | _, [] => []
  | chain, c :: cs => xorBlock (dec c) chain :: cbcDecrypt dec c cs

/-- The number of padding bytes for a plaintext of `len` bytes, 1 to 16 (R203). -/
def padCount (len : Nat) : Nat := 16 - len % 16

/-- Append the padding: `p` bytes each of value `p` (R203). -/
def addPadding (s : Bytes) : Bytes :=
  s ++ List.replicate (padCount s.length) (BitVec.ofNat 8 (padCount s.length))

/-- Strip and validate the padding (R205, R207): the last byte `p` is 1 to 16 and the last `p` bytes all equal `p`. -/
def stripPadding (s : Bytes) : Option Bytes :=
  match s.getLast? with
  | none => none
  | some p =>
    if 1 ≤ p.toNat ∧ p.toNat ≤ 16 ∧ p.toNat ≤ s.length ∧ s.drop (s.length - p.toNat) = List.replicate p.toNat p then
      some (s.take (s.length - p.toNat))
    else none

/-- The whole 16-byte blocks of a byte string. -/
def toBlocks (s : Bytes) : List Bytes16 :=
  (List.range (s.length / 16)).map fun k => Vector.ofFn fun i => s.getD (16 * k + i.val) 0

/-- The byte string of a list of blocks. -/
def ofBlocks (bs : List Bytes16) : Bytes := bs.flatMap fun b => b.toList

/-- How the underlying stream (the source read or the sink written) served the codec: to the end, or with an I/O failure
of the stream's 8-bit code (R208). -/
inductive StreamEnd where
  | complete
  | failed (c : Byte)
  deriving DecidableEq, Repr

/-- What the codec gives for one whole stream: bytes, or one of its error classes (R205 to R208). -/
inductive CodecResult where
  | ok (s : Bytes)
  /-- The error carries no output. For a misaligned ciphertext the spec says so ("no partial output", R206). DESIGN CHOICE
  (log 21): for a padding failure (R207) and an I/O failure (R208) the spec does not say whether plaintext or ciphertext of
  earlier blocks has been delivered, and the model records none. -/
  | error (e : CodecError) (info : Byte)
  deriving DecidableEq, Repr

/-- The member cipher that the port's index names. -/
def memberOf (m : BitVec 4) : Fin Config.nmemb :=
  if h : m.toNat < Config.nmemb then ⟨m.toNat, h⟩ else ⟨0, Config.nmemb_pos⟩

/-- Encrypt direction: pad, then CBC (R202). -/
def codecEncrypt (p : CipherPort) (s : Bytes) : CodecResult :=
  .ok (ofBlocks (cbcEncrypt (Config.enc (memberOf p.member) p.key) p.iv (toBlocks (addPadding s))))

/-- Decrypt direction: a length that is no multiple of the block size is the misaligned-ciphertext error with no
partial output (R205, R206); then CBC, then the padding check (R207). DESIGN CHOICE (log 21): a padding failure drops the
plaintext of the earlier blocks too, on which the spec is silent. -/
def codecDecrypt (p : CipherPort) (s : Bytes) : CodecResult :=
  if s.length % 16 ≠ 0 then .error .misaligned 0
  else match stripPadding (ofBlocks (cbcDecrypt (Config.dec (memberOf p.member) p.key) p.iv (toBlocks s))) with
    | some t => .ok t
    | none => .error .padding 0

/-- The codec on one whole stream that was served to its end; with no session it must not operate (R76). -/
def codecRun (p : CipherPort) (s : Bytes) : Option CodecResult :=
  if p.valid then
    some (match p.dir with
      | .encrypt => codecEncrypt p s
      | .decrypt => codecDecrypt p s)
  else none

/-- The codec on a stream that may fail, in either direction: an I/O failure is propagated verbatim as
`CodecErr(0x03, c)` (R208). The tests of the end of the input, alignment and padding (R205), come after it and are not
reached. -/
def codecStream (p : CipherPort) (s : Bytes) (e : StreamEnd) : Option CodecResult :=
  match e with
  | .complete => codecRun p s
  | .failed c => if p.valid then some (.error .io c) else none

/-- How a result of the codec reaches GPKDE: an error is delivered as `CodecErr` (R206 to R209), a success not at all. -/
def CodecResult.report : CodecResult → Option Action
  | .ok _ => none
  | .error e info => some (.codec e info)

end Sys2Proof.Machine
end

