-- ==== Sys2Proof/Machine/Script.lean ====
section
/-! DEFINITION. The host-script notation (R102) and its pseudo-instructions (R103): each line's bus accesses, how a script
runs while the other agents take their turns between its accesses (R18, R70; log 18), and each line's result. -/

namespace Sys2Proof.Machine

/-- One line of a host script (R102, R103). R103 does not say which registers the `<REG>` of `LDB` and `RDB` may name. DESIGN
CHOICE (log 23): one of the six byte-array registers of R62. -/
inductive HostLine where
  /-- `WR <loc>, <u32>`: register and byte offset inside it. -/
  | wr (r : Reg) (disp : Nat) (v : Word)
  /-- `RD <loc>`. -/
  | rd (r : Reg) (disp : Nat)
  /-- `DERIVE`, `KFREAD`, `OPEN …`, `CLEAR …`, `PUSH b`, `EOS`, `SRCERR c`. -/
  | instr (i : Instr)
  /-- `WAIT`. -/
  | wait
  /-- `LDB <REG>, <bytes>`; a byte-array register only (DESIGN CHOICE, log 23). -/
  | ldb (r : ByteReg) (bs : Bytes)
  /-- `SETLEN pw=<n> kf=<m>`. -/
  | setlen (pw : BitVec 16) (kf : BitVec 8)
  /-- `PUSHALL <bytes>`. -/
  | pushall (bs : Bytes)
  /-- `ACK`. -/
  | ack
  /-- `RDB <REG>`; a byte-array register only (DESIGN CHOICE, log 23). -/
  | rdb (r : ByteReg)
  deriving DecidableEq, Repr

/-- Zero bytes up to a multiple of 4 (R103, `LDB`). -/
def padToWord (bs : Bytes) : Bytes := bs ++ List.replicate ((4 - bs.length % 4) % 4) 0

/-- Word `k` of a byte string. -/
def wordAt (bs : Bytes) (k : Nat) : Word :=
  le32 (bs.getD (4 * k) 0) (bs.getD (4 * k + 1) 0) (bs.getD (4 * k + 2) 0) (bs.getD (4 * k + 3) 0)

/-- The host write of one instruction's word (R102). -/
def instrAccess (i : Instr) : Access := .write (portOffset i.port) 4 (encode i)

/-- The access that `WAIT` repeats: `RD STATUS` (R103). -/
def pollAccess : Access := .read Reg.status.offset 4

/-- The bus accesses of a line, in order (R102, R103); for `WAIT`, the one access that it repeats. -/
def HostLine.accesses : HostLine → List Access
  | .wr r disp v => [.write (r.offset + disp) 4 v]
  | .rd r disp => [.read (r.offset + disp) 4]
  | .instr i => [instrAccess i]
  | .wait => [pollAccess]
  | .ldb r bs =>
    (List.range ((padToWord bs).length / 4)).map fun k =>
      .write ((Reg.array r).offset + 4 * k) 4 (wordAt (padToWord bs) k)
  | .setlen pw kf => [.write Reg.kmLen.offset 4 (BitVec.ofNat 32 (pw.toNat + 65536 * kf.toNat))]
  | .pushall bs => bs.map fun b => instrAccess (.push b)
  | .ack => [.write Reg.status.offset 4 0x00000006]
  | .rdb r => (List.range (r.size / 4)).map fun k => .read ((Reg.array r).offset + 4 * k) 4

/-! ## Running a script -/

/-- The state after `k` steps, none where one of them is refused. -/
def stateAfter (k : Nat) (s : State) : Option State :=
  match Sys2Proof.core.run k s with
  | .next t => some t
  | .fault _ => none
  | .refused _ => none

/-- Steps of the machine whose agenda is exactly these actions. -/
def State.runActions (s : State) (as : List Action) : Option State := stateAfter as.length { s with agenda := as }

/-- Which turns the agents other than the host take before each of the host's accesses, in any number and order (R18);
before an access that the list does not reach they take none (log 18). -/
abbrev Schedule := List (List Action)

/-- How far a script has come: the state, the turns still to come, and the actions taken so far. -/
structure Progress where
  state : State
  sched : Schedule
  taken : List Action
  deriving DecidableEq, Repr

/-- One access of the host, after the turns scheduled before it; none where a step is refused. -/
def Progress.access (p : Progress) (a : Access) : Option Progress :=
  match p.state.runActions (p.sched.headD [] ++ [.host a]) with
  | some t => some ⟨t, p.sched.tail, p.taken ++ (p.sched.headD [] ++ [.host a])⟩
  | none => none

/-- Accesses one after another, with the bus response of each (R102). -/
def Progress.accesses (p : Progress) : List Access → Option (List Response × Progress)
  | [] => some ([], p)
  | a :: as =>
    match p.access a with
    | none => none
    | some q =>
      match q.accesses as with
      | none => none
      | some (rs, r) => some (q.state.bus :: rs, r)

/-- The value that a poll read, if it shows `BUSY = 0` (R103). -/
def idleValue : Response → Option Word
  | .okData v => if bit v 0 then none else some v
  | .none => none
  | .ok => none
  | .error => none

/-- `WAIT` (R103): `RD STATUS` again and again until the value read has bit 0 (`BUSY`) = 0. When the schedule is used up
one more poll is made; if it still reads `BUSY = 1` no agent ever moves again, and the `WAIT` does not end: none (R265). -/
def waitLoop : Schedule → State → List Action → Option (Word × Progress)
  | [], s, taken =>
    match (Progress.mk s [] taken).access pollAccess with
    | none => none
    | some q =>
      match idleValue q.state.bus with
      | some v => some (v, q)
      | none => none
  | turns :: more, s, taken =>
    match (Progress.mk s (turns :: more) taken).access pollAccess with
    | none => none
    | some q =>
      match idleValue q.state.bus with
      | some v => some (v, q)
      | none => waitLoop more q.state q.taken

/-- The result of a line. -/
inductive LineResult where
  /-- The bus responses of the line's accesses, one for a line of one access (R102). -/
  | responses (rs : List Response)
  /-- `WAIT`: the last value read (R103). -/
  | value (v : Word)
  /-- `RDB`: the register's bytes (R103). -/
  | bytes (bs : Bytes)
  deriving DecidableEq, Repr

/-- The four bytes of a word, byte 0 first (R62). -/
def bytesOfWord (v : Word) : Bytes := [byteOfWord v 0, byteOfWord v 1, byteOfWord v 2, byteOfWord v 3]

/-- The bytes of successive reads (R62, R103 `RDB`); none where one of them was refused. -/
def unpack : List Response → Option Bytes
  | [] => some []
  | .okData v :: rs =>
    match unpack rs with
    | some bs => some (bytesOfWord v ++ bs)
    | none => none
  | .none :: _ => none
  | .ok :: _ => none
  | .error :: _ => none

/-- The result of `RDB` (R103): the bytes read. Every word of a byte-array register is readable (R63), so the other arm is
not taken. -/
def rdbResult (rs : List Response) : LineResult :=
  match unpack rs with
  | some bs => .bytes bs
  | none => .responses rs

/-- The result of a line other than `WAIT`, from its bus responses (R102, R103). -/
def HostLine.result : HostLine → List Response → LineResult
  | .rdb _, rs => rdbResult rs
  | .wr _ _ _, rs | .rd _ _, rs | .instr _, rs | .wait, rs | .ldb _ _, rs | .setlen _ _, rs | .pushall _, rs | .ack, rs =>
    .responses rs

/-- The accesses of a line other than `WAIT`, with its result. -/
def Progress.plainLine (p : Progress) (l : HostLine) : Option (LineResult × Progress) :=
  match p.accesses l.accesses with
  | some (rs, q) => some (l.result rs, q)
  | none => none

/-- One line of a script. -/
def Progress.line (p : Progress) (l : HostLine) : Option (LineResult × Progress) :=
  match l with
  | .wait =>
    match waitLoop p.sched p.state p.taken with
    | some (v, q) => some (.value v, q)
    | none => none
  | .wr _ _ _ | .rd _ _ | .instr _ | .ldb _ _ | .setlen _ _ | .pushall _ | .ack | .rdb _ => p.plainLine l

/-- The lines of a script one after another: the next line begins only when the one before it has ended. -/
def Progress.lines (p : Progress) : List HostLine → Option (List LineResult × Progress)
  | [] => some ([], p)
  | l :: ls =>
    match p.line l with
    | none => none
    | some (r, q) =>
      match q.lines ls with
      | none => none
      | some (rs, e) => some (r :: rs, e)

/-- A host script run from a state under a schedule of the other agents: the lines' results and where it ends; none where
a `WAIT` does not end or a step is refused. -/
def State.runScript (s : State) (sched : Schedule) (ls : List HostLine) : Option (List LineResult × Progress) :=
  (Progress.mk s sched []).lines ls

end Sys2Proof.Machine
end

