-- ==== Sys2Proof/WellFormed.lean ====
section
/-! DEFINITION. Which terms are well formed. Every term of `Instr` is (its types admit only what R92 to R94 and R100
allow); a line of a host script has the conditions that R102 and R103 put on it, and one of the model's own (log 22). -/

namespace Sys2Proof

/-- Every instruction term has a word: a field its row does not list is no argument (R94), `KS`, `DIR`, `CLR` and the
data byte have exactly their encodable values (R92, R100). -/
def Instr.wellFormed : Instr → Bool
  | .derive => true
  | .kfread => true
  | .openSession _ _ => true
  | .clear _ _ _ => true
  | .push _ => true
  | .eos => true
  | .srcerr _ => true

namespace Machine

/-- The offset in `<loc>` is a multiple of 4 (R102). DESIGN CHOICE (log 22): that it lies inside the named register is the
model's own condition; R102 does not ask for it. -/
def locWellFormed (r : Reg) (disp : Nat) : Bool := disp % 4 == 0 && decide (disp < r.size)

/-- The conditions on a line: those of `<loc>` above (R102 and log 22); the padded length of `LDB` does not exceed the
register's size (R103). -/
def HostLine.wellFormed : HostLine → Bool
  | .wr r disp _ => locWellFormed r disp
  | .rd r disp => locWellFormed r disp
  | .instr i => i.wellFormed
  | .wait => true
  | .ldb r bs => decide ((padToWord bs).length ≤ r.size)
  | .setlen _ _ => true
  | .pushall _ => true
  | .ack => true
  | .rdb _ => true

end Machine

end Sys2Proof
end

