-- ==== Sys2Proof/Safety.lean ====
section
/-! DEFINITION. What counts as a safe state: the invariants the spec states (R23, R33, R36, R40 to R46), the invariant
of a derivation in flight (R132 to R134), the count of internal steps still to come (R135, R273), and the words in which
the whole-machine statements say which step wrote a register. -/

namespace Sys2Proof.Machine

/-- The phases each command passes through (R40). -/
def legalPhase : Op → KeySource → Phase → Bool
  | .none, _, .idle => true
  | .derive, _, .base => true
  | .derive, _, .stretch => true
  | .derive, _, .final => true
  | .openSession, .derived, .base => true
  | .openSession, .derived, .stretch => true
  | .openSession, .derived, .final => true
  | .openSession, _, .select => true
  | .kfread, _, .kfStream => true
  | .kfread, _, .kfFinish => true
  | .clear, _, .clear => true
  | _, _, _ => false

/-- The invariants of the machine's state. -/
structure MachineInv (s : State) : Prop where
  /-- `PW` is held in canonical form (log 8). -/
  pwCanonical : Memory.wf s.pw
  /-- `PW` has `PW_MAX` bytes (R22). -/
  pwInWindow : ∀ c ∈ s.pw, c.1 < Config.pwMax
  /-- `BUSY = 0` exactly when `OP = NONE` (R40). -/
  busyIffOp : s.busy = true ↔ s.op ≠ .none
  /-- `PHASE` is one the command in flight passes through, `IDLE` exactly when there is none (R40). -/
  phaseLegal : legalPhase s.op s.cKs s.phase = true
  /-- `DONE` is 0 while a command is in flight (R32, R91). -/
  busyNotDone : s.busy = true → s.done = false
  /-- `STATUS.ERR = 0` implies `ERRCODE = 0` (R33). -/
  errClear : s.err = false → s.errcode = 0
  /-- `STATUS.ERR = 1` implies that `ERRCODE` is `INFO·256 + CODE` of a code of R221; no other is ever written. -/
  errRecorded : s.err = true → ∃ e info, s.errcode = errcodeWord e info
  /-- `SESS_VALID = 0` implies that the other four latches are zero (R36). -/
  sessClosed : s.sess.valid = false → s.sess = Session.closed
  /-- Members other than 0 are never selected (R172). -/
  sessMember : s.sess.member = 0
  /-- While `OPEN` is in flight no session is open (R173). -/
  openClosesSession : s.op = .openSession → s.sess.valid = false
  /-- A derivation in flight was issued with legal lengths (R128). -/
  lengthsChecked : s.op = .derive ∨ (s.op = .openSession ∧ s.cKs = .derived) → s.lengthsLegal = true
  /-- `C_KS`, `C_DIR` are zero but for an `OPEN` (R41, R94). -/
  openFields : s.op ≠ .openSession → s.cKs = .derived ∧ s.cDir = .encrypt
  /-- `C_CLR` is zero but for a `CLEAR` (R41, R94). -/
  clearField : s.op ≠ .clear → s.cClr = ⟨false, false, false⟩
  /-- `BASEBUF` is zero outside the iteration stage (R42, R46, R133). -/
  baseBufZero : s.phase ≠ .stretch → s.baseBuf = zero32
  /-- The lane counters are zero outside the iteration stage (R43, R46). -/
  laneCntZero : s.phase ≠ .stretch → s.laneCnt = Vector.replicate 2 0
  /-- A lane never owes more than `ROUNDS` applications (R43, R136). -/
  laneCntBound : ∀ j : LaneId, s.laneCnt[j].toNat ≤ s.rounds.toNat
  /-- `KEYTMP` is zero but from the join (or the issue of `OPEN ks=1`) to completion (R44, R46). -/
  keyTmpZero : s.phase ≠ .final → s.phase ≠ .select → s.keyTmp = zero32
  /-- There is a key-file stream only in a `KFREAD` (R45, R46). -/
  streamOnlyKfread : s.op ≠ .kfread → s.kfAll = [] ∧ s.kfEnd = .none
  /-- While the stream is open it has not ended (R156 to R159). -/
  streamOpen : s.phase = .kfStream → s.kfEnd = .none
  /-- The finish step comes after the stream's end (R158, R159). -/
  streamEnded : s.phase = .kfFinish → s.kfEnd ≠ .none

/-- The key an `OPEN` in flight has resolved (R173, R174). -/
def State.resolvedKey (s : State) : Bytes32 :=
  match s.cKs with
  | .derived => s.derivedKey
  | .supplied => s.ckey

/-- The invariant of a derivation in flight, under any order of the agents' steps. -/
structure DerivationInv (s : State) : Prop where
  /-- Lane `j` has applied `Enc` to its half of the base `ROUNDS - cnt` times (R131, R132). -/
  lanes : s.phase = .stretch → ∀ j : LaneId,
    s.laneBlk j = stretch Config.primitives s.tseed (half s.baseOfKeyMaterial j) (s.rounds.toNat - s.laneCnt[j].toNat)
  /-- After the join `KEYTMP` is the derived key (R133, R135). -/
  joined : s.phase = .final → s.keyTmp = s.derivedKey
  /-- At the select step `KEYTMP` is the resolved key (R173). -/
  resolved : s.phase = .select → s.keyTmp = s.resolvedKey

/-- The select step still to come after a derivation (R40, R273): one for `OPEN`, none for `DERIVE`. -/
def State.selectWork (s : State) : Nat := if s.op = .openSession then 1 else 0

/-- The internal steps still to come before the command in flight completes (R135, R273). A `KFREAD` whose stream is
open has one to come, after the host ends the stream. -/
def State.internalWork (s : State) : Nat :=
  match s.phase with
  | .idle => 0
  | .base => 2 * s.rounds.toNat + 3 + s.selectWork
  | .stretch => s.laneCnt[0].toNat + s.laneCnt[1].toNat + 2 + s.selectWork
  | .final => 1 + s.selectWork
  | .select => 1
  | .kfStream => 1
  | .kfFinish => 1
  | .clear => 1

/-- The step of an internal agent, none where the agent has none enabled (R18). -/
def State.internalStep (s : State) : Action → Option State
  | .host _ => none
  | .sequencer => s.sequencerStep
  | .lane j => s.laneStep j
  | .codec _ _ => none
  | .reset => none

/-- A turn of one of the block's own agents (R18). -/
def Action.internal : Action → Bool
  | .host _ => false
  | .sequencer => true
  | .lane _ => true
  | .codec _ _ => false
  | .reset => false

/-- A stretch of an agenda in which each of the block's own agents gets a turn (weak fairness, R135, R273). -/
def fairRound (l : List Action) : Prop :=
  (∀ a ∈ l, a.internal = true) ∧ Action.sequencer ∈ l ∧ ∀ j : LaneId, Action.lane j ∈ l

/-- The event that ends a key-file stream (R158, R159). -/
def endEvent : KfEnd → List Instr
  | .none => []
  | .eos => [.eos]
  | .err c => [.srcerr c]

/-- The host writes that deliver a finished stream `(s, end)` (R151, R162). -/
def streamActions (bs : Bytes) (e : KfEnd) : List Action :=
  (bs.map Instr.push ++ endEvent e).map fun i => .host (instrAccess i)

/-- The actions taken up to and with the poll numbered `k`, from 0, of a `WAIT` under a schedule (R103): before each poll
the turns scheduled before it, none before the one poll that follows the schedule's end. -/
def pollActions (sched : Schedule) (k : Nat) : List Action :=
  ((sched ++ [[]]).take (k + 1)).flatMap fun turns => turns ++ [Action.host pollAccess]

/-- The next step is a reset event (R250). -/
def State.resetsNext (s : State) : Prop := ∃ rest, s.agenda = .reset :: rest

/-- The step from `s` to `t` is a host word write at an offset in `[lo, hi)`, accepted at an idle block that stays idle. -/
def hostWrote (s t : State) (lo hi : Nat) : Prop :=
  ∃ off v rest, s.agenda = .host (.write off 4 v) :: rest ∧ lo ≤ off ∧ off < hi ∧
    s.busy = false ∧ t.busy = false ∧ t.bus = .ok

/-- The step from `s` to `t` is the clear step of a `CLEAR km` (R190, R192). -/
def clearedKm (s t : State) : Prop :=
  s.op = .clear ∧ s.phase = .clear ∧ s.cClr.km = true ∧ t.busy = false ∧ t.done = true

/-- The step from `s` to `t` is a finish step of `KFREAD` that stores the hash `h` (R160). -/
def storedHash (s t : State) (h : Bytes32) : Prop :=
  s.op = .kfread ∧ s.phase = .kfFinish ∧ normalize Config.primitives s.kfAll s.kfEnd = .ok h ∧
    t.busy = false ∧ t.done = true

end Sys2Proof.Machine
end

