-- ==== Sys2Proof/Certificates/Slice0/Obligations.lean ====
section
/-! DEFINITION. The statements for the provers. Each docstring names the rule it formalises; OBLIGATIONS.json lists
them. `exec i s` is the host write of the word of `i` at state `s`; `hostAccess a s` is one bus access; `act a s` is one
step of one agent; `stateAfter k t` is the state after `k` steps. -/

open Sys2Proof Sys2Proof.Machine

/-! ## Encoding -/

/-- R92, R93, R100, R102: decoding the word of an instruction, at the register its format is written to, gives the
instruction back, at every value of every field. -/
def Obligations.DecodeOfEncodeIsInstr : Prop :=
  ∀ i : Instr, i.wellFormed = true → decode i.port (encode i) = .instr i

/-- R94, R97, R99, R101: a word that decodes is the word of its instruction, so no bit of it is dropped and no reserved
word falls through to a neighbour. -/
def Obligations.EncodeOfDecodeIsWord : Prop :=
  ∀ (p : Port) (w : Word) (i : Instr), decode p w = .instr i → i.port = p ∧ encode i = w

/-- R93: a word selects a row when `w AND mask = match`; the decoder agrees with the table row by row, and the rows are
disjoint. -/
def Obligations.WordDecodesExactlyWhenItSelectsARow : Prop :=
  (∀ (p : Port) (w : Word) (i : Instr), decode p w = .instr i →
    ∃ r ∈ opcodeTable, r.selects p w = true ∧ r.mnemonic = i.mnemonic) ∧
  (∀ r ∈ opcodeTable, ∀ (p : Port) (w : Word), r.selects p w = true →
    ∃ i, decode p w = .instr i ∧ i.mnemonic = r.mnemonic) ∧
  opcodeTable.Pairwise (fun r q => ∀ (p : Port) (w : Word), ¬ (r.selects p w = true ∧ q.selects p w = true))

/-- R94: the legal command words are exactly the fourteen listed, one for `DERIVE`, one for `KFREAD`, four for `OPEN`,
eight for `CLEAR`. -/
def Obligations.FourteenLegalCommandWords : Prop :=
  (∀ w : Word, (∃ i, decode .cmd w = .instr i) ↔ w ∈ legalCommandWords) ∧
  legalCommandWords.length = 14 ∧ legalCommandWords.Nodup ∧
  (∀ w : Word, decode .cmd w = .instr .derive ↔ w = 0x00000001) ∧
  (∀ w : Word, decode .cmd w = .instr .kfread ↔ w = 0x00000002) ∧
  (∀ w : Word, (∃ ks dir, decode .cmd w = .instr (.openSession ks dir)) ↔ w ∈ [0x003, 0x103, 0x203, 0x303]) ∧
  (∀ w : Word, (∃ km ckey sess, decode .cmd w = .instr (.clear km ckey sess)) ↔
    w ∈ [0x004, 0x404, 0x804, 0xC04, 0x1004, 0x1404, 0x1804, 0x1C04])

/-- R92, R100 (95_test_vectors.md V1 to V18): words written out from the spec decode to what they stand for. -/
def Obligations.WrittenOutWordsDecode : Prop :=
  decode .cmd 0x00000001 = .instr .derive ∧
  decode .cmd 0x00000002 = .instr .kfread ∧
  decode .cmd 0x00000203 = .instr (.openSession .derived .decrypt) ∧
  decode .cmd 0x00001404 = .instr (.clear true false true) ∧
  decode .kfPush 0x00000041 = .instr (.push 0x41) ∧
  decode .kfPush 0x00000100 = .instr .eos ∧
  decode .kfPush 0x0000025A = .instr (.srcerr 0x5A) ∧
  decode .cmd 0x00000505 = .illegalCommand 0x05 ∧
  decode .kfPush 0x00000300 = .noEvent

/-! ## The step -/

/-- R18, R70, R90, R91, R72: one step is one action of one agent, and a host write of a word that decodes runs exactly its
instruction. The MODEL'S CHOICES in it: that the actions stand in an agenda whose first is taken (log 1); the order in which
the block's own agents step when it is empty (log 2); that a bare table word is read as a command where it is a legal one
(log 6); and that `withFetchWord` stands for loading a program, its word running as the very next step (log 7). -/
def Obligations.StepRunsTheDecodedInstruction : Prop :=
  (∀ (s : State) (a : Action) (rest : List Action), s.agenda = a :: rest →
    step s = act a { s with agenda := rest }) ∧
  (∀ s : State, s.agenda = [] → step s = .next s.autoStep) ∧
  (∀ (s : State) (p : Port) (w : Word) (rest : List Action) (i : Instr),
    s.agenda = .host (.write (portOffset p) 4 w) :: rest → decode p w = .instr i →
    step s = exec i { s with agenda := rest }) ∧
  (∀ (s : State) (nbits w : Nat) (i : Instr), decodeTableWord nbits w = some i →
    step (s.withFetchWord nbits w) = exec i s)

/-- R91 step 3, R97, R227: a `CMD` write of any word but the fourteen legal ones, at an idle block, issues nothing and
records `E_BADCMD` with `INFO` the opcode byte written. -/
def Obligations.IllegalCommandWordRecordsBadCmd : Prop :=
  ∀ (s : State) (w : Word), s.busy = false → w ∉ legalCommandWords →
    hostAccess (.write 0x000 4 w) s =
      .next { s with
        done := false, bus := .ok, err := true
        errcode := if s.err then s.errcode else BitVec.ofNat 32 (field w 7 0 * 256 + 0x10) }

/-- R250, R251, R48: reset, from any state (a command in flight included), leaves every bit of state zero. The last clause,
that the agenda stays, is the MODEL'S CHOICE and no rule's: it is what the outside world still does (log 17). -/
def Obligations.ResetClearsEveryBit : Prop :=
  ∀ s : State, ∃ t, act .reset s = .next t ∧
    (∀ (r : ByteReg) (i : Nat), t.readByte r i = 0) ∧
    t.pw = [] ∧ t.pwLen = 0 ∧ t.kfLen = 0 ∧ t.kfh = zero32 ∧ t.mseed = zero16 ∧ t.tseed = zero32 ∧ t.rounds = 0 ∧
    t.ckey = zero32 ∧ t.iv = zero16 ∧ t.cid = 0 ∧ t.statusWord = 0 ∧ t.busy = false ∧ t.done = false ∧ t.err = false ∧
    t.errcode = 0 ∧ t.irqEnWord = 0 ∧ t.doneIe = false ∧ t.errIe = false ∧ t.irq = false ∧
    t.sess.valid = false ∧ t.sess.member = 0 ∧ t.sess.key = zero32 ∧ t.sess.iv = zero16 ∧ t.sess.dir = .encrypt ∧
    t.op = .none ∧ t.phase = .idle ∧ t.cKs = .derived ∧ t.cDir = .encrypt ∧ t.cClr = ⟨false, false, false⟩ ∧
    t.baseBuf = zero32 ∧ (∀ j : LaneId, t.laneCnt[j] = 0) ∧ t.keyTmp = zero32 ∧ t.kfAll = [] ∧ t.kfEnd = .none ∧
    t.agenda = s.agenda

/-! ## Bus -/

/-- R69: a host access that gets bus `ERROR` leaves every bit of state as it was. -/
def Obligations.BusErrorChangesNothing : Prop :=
  ∀ (a : Access) (s t : State), hostAccess a s = .next t → t.bus = .error →
    t = { s with bus := .error } ∧ t.irq = s.irq

/-- R65: the only access is an aligned 32-bit word; everything else gets bus `ERROR` and changes nothing. R65 names accesses
of 1, 2 and 4 bytes; that every other size is refused as well is the MODEL'S CHOICE (log 13). -/
def Obligations.WrongWidthOrAlignmentIsRefused : Prop :=
  ∀ (s : State) (off size : Nat) (v : Word), size ≠ 4 ∨ off % 4 ≠ 0 →
    hostAccess (.read off size) s = .next { s with bus := .error } ∧
    hostAccess (.write off size v) s = .next { s with bus := .error }

/-- R66: an access to an unmapped offset gets bus `ERROR` and changes nothing. -/
def Obligations.UnmappedOffsetIsRefused : Prop :=
  ∀ (s : State) (off size : Nat) (v : Word),
    (0x030 ≤ off ∧ off ≤ 0x03F) ∨ (0x0B0 ≤ off ∧ off ≤ 0x0FF) ∨ 0x100 + Config.pwMax ≤ off →
    hostAccess (.read off size) s = .next { s with bus := .error } ∧
    hostAccess (.write off size v) s = .next { s with bus := .error }

/-- R67: reads of `CMD` and `KF_PUSH` and writes of `ERRCODE` get bus `ERROR` and change nothing; `STATUS` accepts
writes at an idle block. -/
def Obligations.AccessRightsAreEnforced : Prop :=
  ∀ (s : State) (v : Word),
    hostAccess (.read 0x000 4) s = .next { s with bus := .error } ∧
    hostAccess (.read 0x01C 4) s = .next { s with bus := .error } ∧
    hostAccess (.write 0x008 4 v) s = .next { s with bus := .error } ∧
    (s.busy = false → ∃ t, hostAccess (.write 0x004 4 v) s = .next t ∧ t.bus = .ok)

/-- R62, R63: a read changes nothing but the response; an aligned word of a readable register answers `OK` with the
register's value, reserved bits 0, a word of a byte-array register packed little-endian, whether or not the block is
busy; every other read answers `ERROR` (R65 to R67). That this covers sizes other than 1, 2 and 4 bytes is the MODEL'S
CHOICE (log 13). -/
def Obligations.ReadsReturnRegistersAndChangeNothing : Prop :=
  (∀ (s : State) (off size : Nat), ∃ r, hostAccess (.read off size) s = .next { s with bus := r }) ∧
  (∀ s : State,
    hostAccess (.read 0x004 4) s = .next { s with bus := .okData s.statusWord } ∧
    hostAccess (.read 0x008 4) s = .next { s with bus := .okData s.errcode } ∧
    hostAccess (.read 0x00C 4) s = .next { s with bus := .okData s.irqEnWord } ∧
    hostAccess (.read 0x010 4) s = .next { s with bus := .okData s.rounds } ∧
    hostAccess (.read 0x014 4) s = .next { s with bus := .okData s.kmLenWord } ∧
    hostAccess (.read 0x018 4) s = .next { s with bus := .okData s.cipherIdWord }) ∧
  (∀ (s : State) (r : ByteReg) (k : Nat), 4 * k + 4 ≤ r.size →
    ∃ v, hostAccess (.read ((Reg.array r).offset + 4 * k) 4) s = .next { s with bus := .okData v } ∧
      field v 7 0 = (s.readByte r (4 * k)).toNat ∧
      field v 15 8 = (s.readByte r (4 * k + 1)).toNat ∧
      field v 23 16 = (s.readByte r (4 * k + 2)).toNat ∧
      field v 31 24 = (s.readByte r (4 * k + 3)).toNat) ∧
  (∀ (s : State) (off size : Nat),
    size ≠ 4 ∨ off % 4 ≠ 0 ∨ off = 0x000 ∨ off = 0x01C ∨ (0x030 ≤ off ∧ off ≤ 0x03F) ∨ (0x0B0 ≤ off ∧ off ≤ 0x0FF) ∨
      0x100 + Config.pwMax ≤ off →
    hostAccess (.read off size) s = .next { s with bus := .error }) ∧
  (∀ s : State,
    field s.statusWord 7 4 = 0 ∧ field s.statusWord 31 12 = 0 ∧ field s.irqEnWord 0 0 = 0 ∧ field s.irqEnWord 31 3 = 0 ∧
    field s.kmLenWord 31 24 = 0 ∧ field s.cipherIdWord 31 8 = 0 ∧ (MachineInv s → field s.errcode 31 16 = 0))

/-- R23, R30, R32, R34: the fields of the control words as the host reads them; reserved bits read 0, `SESSION` and
`MEMBER` mirror the session latches. -/
def Obligations.ControlWordsReadTheirFields : Prop :=
  ∀ s : State,
    (field s.statusWord 0 0 = s.busy.toNat ∧ field s.statusWord 1 1 = s.done.toNat ∧
      field s.statusWord 2 2 = s.err.toNat ∧ field s.statusWord 3 3 = s.sess.valid.toNat ∧
      field s.statusWord 7 4 = 0 ∧ field s.statusWord 11 8 = s.sess.member.toNat ∧ field s.statusWord 31 12 = 0) ∧
    (field s.kmLenWord 15 0 = s.pwLen.toNat ∧ field s.kmLenWord 23 16 = s.kfLen.toNat ∧ field s.kmLenWord 31 24 = 0) ∧
    (field s.cipherIdWord 7 0 = s.cid.toNat ∧ field s.cipherIdWord 31 8 = 0) ∧
    (field s.irqEnWord 0 0 = 0 ∧ field s.irqEnWord 1 1 = s.doneIe.toNat ∧ field s.irqEnWord 2 2 = s.errIe.toNat ∧
      field s.irqEnWord 31 3 = 0)

/-- R64: an accepted write to `ROUNDS`, `KM_LEN` or `CIPHER_ID` sets its fields, ignores reserved bits and changes
nothing else. -/
def Obligations.ControlRegisterWritesSetTheirFields : Prop :=
  ∀ (s : State) (v : Word), s.busy = false →
    hostAccess (.write 0x010 4 v) s = .next { s with bus := .ok, rounds := v } ∧
    (∃ t, hostAccess (.write 0x014 4 v) s = .next t ∧ t.pwLen.toNat = field v 15 0 ∧ t.kfLen.toNat = field v 23 16 ∧
      t = { s with bus := .ok, pwLen := t.pwLen, kfLen := t.kfLen }) ∧
    (∃ t, hostAccess (.write 0x018 4 v) s = .next t ∧ t.cid.toNat = field v 7 0 ∧
      t = { s with bus := .ok, cid := t.cid })

/-- R62, R64: an accepted word write inside a byte-array register stores its four bytes little-endian, leaves every other
byte of every byte-array register and everything else unchanged, and reads back as written. That `PW` is held in canonical
form, and stays so, is the MODEL'S CHOICE of representation (log 8). -/
def Obligations.ArrayWordWriteStoresFourBytes : Prop :=
  ∀ (s : State) (r : ByteReg) (k : Nat) (v : Word),
    Memory.wf s.pw → s.busy = false → 4 * k + 4 ≤ r.size →
    ∃ t, hostAccess (.write ((Reg.array r).offset + 4 * k) 4 v) s = .next t ∧
      (t.readByte r (4 * k)).toNat = field v 7 0 ∧
      (t.readByte r (4 * k + 1)).toNat = field v 15 8 ∧
      (t.readByte r (4 * k + 2)).toNat = field v 23 16 ∧
      (t.readByte r (4 * k + 3)).toNat = field v 31 24 ∧
      (∀ (q : ByteReg) (i : Nat), ¬ (q = r ∧ 4 * k ≤ i ∧ i < 4 * k + 4) → t.readByte q i = s.readByte q i) ∧
      t = { s with
        bus := .ok, pw := t.pw, mseed := t.mseed, tseed := t.tseed, kfh := t.kfh, ckey := t.ckey, iv := t.iv } ∧
      Memory.wf t.pw ∧
      hostAccess (.read ((Reg.array r).offset + 4 * k) 4) t = .next { t with bus := .okData v }

/-- R68: while a command is in flight a write to any offset other than `KF_PUSH` gets bus `ERROR` and changes nothing;
what a read answers does not depend on it (but for the `BUSY` bit itself); and the inputs of a command, and `CKEY` and
`KFH`, do not change between its issue and its completion. -/
def Obligations.BusyBlockRefusesWritesAndKeepsItsInputs : Prop :=
  (∀ (s : State) (off size : Nat) (v : Word), s.busy = true → off ≠ 0x01C →
    hostAccess (.write off size v) s = .next { s with bus := .error }) ∧
  (∀ (s : State) (off size : Nat) (b : Bool), off ≠ 0x004 →
    ∃ r, hostAccess (.read off size) s = .next { s with bus := r } ∧
      hostAccess (.read off size) { s with busy := b } = .next { s with busy := b, bus := r }) ∧
  (∀ s t : State, step s = .next t → s.busy = true → t.busy = true →
    t.pw = s.pw ∧ t.pwLen = s.pwLen ∧ t.kfLen = s.kfLen ∧ t.kfh = s.kfh ∧ t.mseed = s.mseed ∧ t.tseed = s.tseed ∧
    t.rounds = s.rounds ∧ t.ckey = s.ckey ∧ t.iv = s.iv ∧ t.cid = s.cid ∧ t.doneIe = s.doneIe ∧ t.errIe = s.errIe)

/-- R72, R101: a `KF_PUSH` write is accepted exactly when a `KFREAD` awaits it and the word encodes an event; then it
runs that event; otherwise it gets bus `ERROR` and changes nothing. The words that encode no event are those with
`KIND = 3`, a bit of 31:10 set, or `KIND = EOS` with `DATA` not 0; the others encode what R101 says. -/
def Obligations.KfPushIsAcceptedExactlyInAnOpenStream : Prop :=
  (∀ (s : State) (w : Word), ∃ t, hostAccess (.write 0x01C 4 w) s = .next t ∧
    (t.bus = .ok ↔ s.op = .kfread ∧ s.phase = .kfStream ∧ ∃ i, decode .kfPush w = .instr i) ∧
    (t.bus = .ok → ∀ i, decode .kfPush w = .instr i → exec i s = .next t) ∧
    (t.bus ≠ .ok → t = { s with bus := .error })) ∧
  (∀ w : Word, decode .kfPush w = .noEvent ↔
    field w 9 8 = 3 ∨ field w 31 10 ≠ 0 ∨ (field w 9 8 = 1 ∧ field w 7 0 ≠ 0)) ∧
  (∀ w : Word, field w 31 10 = 0 →
    (field w 9 8 = 0 → ∃ b : Byte, decode .kfPush w = .instr (.push b) ∧ b.toNat = field w 7 0) ∧
    (field w 9 8 = 1 → field w 7 0 = 0 → decode .kfPush w = .instr .eos) ∧
    (field w 9 8 = 2 → ∃ c : Byte, decode .kfPush w = .instr (.srcerr c) ∧ c.toNat = field w 7 0))

/-- R193: the acknowledgement clears `DONE` (bit 1) and `ERR` with `ERRCODE` (bit 2) and nothing else, is refused while
busy, and is the only way `ERR` is cleared short of reset. -/
def Obligations.AckIsTheOnlyWayToClearErr : Prop :=
  (∀ (s : State) (v : Word), s.busy = false →
    hostAccess (.write 0x004 4 v) s =
      .next { s with
        bus := .ok
        done := if field v 1 1 = 1 then false else s.done
        err := if field v 2 2 = 1 then false else s.err
        errcode := if field v 2 2 = 1 then 0 else s.errcode }) ∧
  (∀ (s : State) (v : Word), s.busy = true →
    hostAccess (.write 0x004 4 v) s = .next { s with bus := .error }) ∧
  (∀ s t : State, step s = .next t → s.err = true → t.err = false →
    (∃ rest, s.agenda = .reset :: rest) ∨
    (∃ v rest, s.agenda = .host (.write 0x004 4 v) :: rest ∧ field v 2 2 = 1 ∧ s.busy = false))

/-- R37, R194: an accepted write of `IRQ_EN` sets the two enables from bits 1 and 2, ignores the rest and changes
nothing else; `IRQ` is at every instant `(DONE ∧ DONE_IE) ∨ (ERR ∧ ERR_IE)`, so it follows at once. -/
def Obligations.IrqEnableWriteSetsTheLine : Prop :=
  (∀ (s : State) (v : Word), s.busy = false →
    ∃ t, hostAccess (.write 0x00C 4 v) s = .next t ∧
      t = { s with bus := .ok, doneIe := t.doneIe, errIe := t.errIe } ∧
      (t.doneIe = true ↔ field v 1 1 = 1) ∧ (t.errIe = true ↔ field v 2 2 = 1) ∧
      (t.irq = true ↔ (s.done = true ∧ field v 1 1 = 1) ∨ (s.err = true ∧ field v 2 2 = 1))) ∧
  (∀ s : State, s.irq = true ↔ (s.done = true ∧ s.doneIe = true) ∨ (s.err = true ∧ s.errIe = true))

/-! ## Issue, stream events, error recording, completion -/

/-- R96, R129, R156, R173, R191: a legal command at an idle block is issued: `BUSY`, `OP`, the latched fields and the
opcode's own first phase, `DONE` cleared, nothing else changed; `OPEN` closes an earlier session and, with a supplied
key, copies `CKEY` to `KEYTMP` without a length check. While one is in flight no other can be issued: its write gets bus
`ERROR` and changes nothing (R68). -/
def Obligations.LegalCommandsIssue : Prop :=
  (∀ s : State, s.busy = false →
    (s.lengthsLegal = true →
      exec .derive s = .next { s with
        done := false, bus := .ok, busy := true, op := .derive, phase := .base
        cKs := .derived, cDir := .encrypt, cClr := ⟨false, false, false⟩ }) ∧
    exec .kfread s = .next { s with
      done := false, bus := .ok, busy := true, op := .kfread, phase := .kfStream
      cKs := .derived, cDir := .encrypt, cClr := ⟨false, false, false⟩, kfAll := [], kfEnd := .none } ∧
    (∀ dir, s.lengthsLegal = true →
      exec (.openSession .derived dir) s = .next { s with
        done := false, bus := .ok, busy := true, op := .openSession, phase := .base
        cKs := .derived, cDir := dir, cClr := ⟨false, false, false⟩
        sess := ⟨false, 0, zero32, zero16, .encrypt⟩ }) ∧
    (∀ dir, exec (.openSession .supplied dir) s = .next { s with
      done := false, bus := .ok, busy := true, op := .openSession, phase := .select
      cKs := .supplied, cDir := dir, cClr := ⟨false, false, false⟩
      sess := ⟨false, 0, zero32, zero16, .encrypt⟩, keyTmp := s.ckey }) ∧
    (∀ km ckey sess, exec (.clear km ckey sess) s = .next { s with
      done := false, bus := .ok, busy := true, op := .clear, phase := .clear
      cKs := .derived, cDir := .encrypt, cClr := ⟨km, ckey, sess⟩ })) ∧
  (∀ (s : State) (i : Instr), s.busy = true → i.port = .cmd → exec i s = .next { s with bus := .error })

/-- R128: the lengths are legal when `KF_LEN` is 0 or 32 and `PW_LEN` is at most `PW_MAX`. When they are not,
`DERIVE` and `OPEN ks=0` issue nothing and record `E_BADLEN` with `INFO = KF_LEN`, an earlier session staying open; when
they are, both are issued. -/
def Obligations.BadLengthsAreRejectedAtIssue : Prop :=
  (∀ s : State, s.lengthsLegal = true ↔
    (s.kfLen.toNat = 0 ∨ s.kfLen.toNat = 32) ∧ s.pwLen.toNat ≤ Config.pwMax) ∧
  (∀ s : State, s.busy = false →
    ∀ i ∈ [Instr.derive, .openSession .derived .encrypt, .openSession .derived .decrypt],
      (¬ ((s.kfLen.toNat = 0 ∨ s.kfLen.toNat = 32) ∧ s.pwLen.toNat ≤ Config.pwMax) →
        exec i s = .next { s with
          done := false, bus := .ok, err := true
          errcode := if s.err then s.errcode else BitVec.ofNat 32 (s.kfLen.toNat * 256 + 0x11) }) ∧
      ((s.kfLen.toNat = 0 ∨ s.kfLen.toNat = 32) ∧ s.pwLen.toNat ≤ Config.pwMax →
        ∃ t, exec i s = .next t ∧ t.busy = true ∧ t.phase = .base))

/-- R157, R158, R159: in an open stream `PUSH b` appends `b`, `EOS` and `SRCERR c` record the end and close the stream;
no flag and nothing else changes. In every other state the three get bus `ERROR` and change nothing. Their words are
`0x000000bb`, `0x00000100` and `0x000002cc`. -/
def Obligations.StreamEventsAct : Prop :=
  (∀ b : Byte, encode (.push b) = BitVec.ofNat 32 b.toNat ∧ decode .kfPush (encode (.push b)) = .instr (.push b)) ∧
  (encode .eos = 0x00000100 ∧ decode .kfPush (encode .eos) = .instr .eos) ∧
  (∀ c : Byte, encode (.srcerr c) = BitVec.ofNat 32 (0x200 + c.toNat) ∧
    decode .kfPush (encode (.srcerr c)) = .instr (.srcerr c)) ∧
  (∀ s : State,
    (s.op = .kfread → s.phase = .kfStream →
      (∀ b, exec (.push b) s = .next { s with bus := .ok, kfAll := s.kfAll ++ [b] }) ∧
      exec .eos s = .next { s with bus := .ok, kfEnd := .eos, phase := .kfFinish } ∧
      (∀ c, exec (.srcerr c) s = .next { s with bus := .ok, kfEnd := .err c, phase := .kfFinish })) ∧
    (¬ (s.op = .kfread ∧ s.phase = .kfStream) →
      (∀ b, exec (.push b) s = .next { s with bus := .error }) ∧
      exec .eos s = .next { s with bus := .error } ∧
      (∀ c, exec (.srcerr c) s = .next { s with bus := .error })))

/-- R224: recording an error sets `ERR`, and `ERRCODE` to `info·256 + code` if `ERR` was 0; and over any step while `ERR`
stays 1 `ERRCODE` keeps the first error. -/
def Obligations.FirstErrorWins : Prop :=
  (∀ (s : State) (e : ErrorCode) (info : Byte),
    s.recordError e info = { s with
      err := true
      errcode := if s.err then s.errcode else BitVec.ofNat 32 (info.toNat * 256 + e.code.toNat) }) ∧
  (∀ s t : State, step s = .next t → s.err = true → t.err = true → t.errcode = s.errcode)

/-- R225, R226, R227: what the two completions write: no command in flight, hidden datapath state zero; `DONE` 1 and the
error registers untouched on success; `DONE` 0 and the error recorded on failure. A rejection at the write records the
error, after `DONE` has been cleared, and does nothing else. -/
def Obligations.CompletionsRestoreTheIdleState : Prop :=
  ∀ s : State,
    s.succeed = { s with
      done := true, busy := false, op := .none, phase := .idle, cKs := .derived, cDir := .encrypt
      cClr := ⟨false, false, false⟩, baseBuf := zero32, laneCnt := Vector.replicate 2 0, keyTmp := zero32
      kfAll := [], kfEnd := .none } ∧
    (∀ e info, s.fail e info = { s with
      err := true
      errcode := if s.err then s.errcode else BitVec.ofNat 32 (info.toNat * 256 + e.code.toNat)
      done := false, busy := false, op := .none, phase := .idle, cKs := .derived, cDir := .encrypt
      cClr := ⟨false, false, false⟩, baseBuf := zero32, laneCnt := Vector.replicate 2 0, keyTmp := zero32
      kfAll := [], kfEnd := .none }) ∧
    (∀ e info, s.accepted.reject e info = { s with
      done := false, bus := .ok, err := true
      errcode := if s.err then s.errcode else BitVec.ofNat 32 (info.toNat * 256 + e.code.toNat) })

/-- R209: while a session is open a codec error is recorded as delivered and nothing else changes. With no session R209 says
that the event cannot occur; that the model REFUSES it then is the model's answer (log 9). -/
def Obligations.CodecErrorIsRecordedUnmodified : Prop :=
  ∀ (s : State) (info : Byte),
    (s.sess.valid = true →
      act (.codec .misaligned info) s = .next { s with
        err := true, errcode := if s.err then s.errcode else BitVec.ofNat 32 (info.toNat * 256 + 0x02) } ∧
      act (.codec .io info) s = .next { s with
        err := true, errcode := if s.err then s.errcode else BitVec.ofNat 32 (info.toNat * 256 + 0x03) } ∧
      act (.codec .padding info) s = .next { s with
        err := true, errcode := if s.err then s.errcode else BitVec.ofNat 32 (info.toNat * 256 + 0x04) }) ∧
    (s.sess.valid = false → ∀ e, act (.codec e info) s = .refused .codecEventWithoutSession)

/-! ## The functions of the derivation, the normalizer and the selector -/

/-- R121, R122: exactly one of the three branches, in this order, chosen from the lengths alone. -/
def Obligations.BaseHashTakesExactlyOneBranch : Prop :=
  ∀ s : State,
    (s.kfLen = 0 → s.baseOfKeyMaterial = Config.hgp s.password) ∧
    (s.kfLen = 32 → s.pwLen = 0 → s.baseOfKeyMaterial = s.kfh) ∧
    (s.kfLen = 32 → s.pwLen ≠ 0 →
      s.baseOfKeyMaterial = Config.hds ((Config.hgp s.password).toList ++ s.kfh.toList)) ∧
    s.password.length = s.pwLen.toNat

/-- R22, R24: bytes of `PW` at and above `PW_LEN` do not enter the derivation, nor does `KFH` when `KF_LEN = 0`. -/
def Obligations.DerivationIgnoresWhatTheLengthsExclude : Prop :=
  (∀ (s : State) (m : Memory), (∀ i, i < s.pwLen.toNat → Memory.read m i = Memory.read s.pw i) →
    ({ s with pw := m } : State).derivedKey = s.derivedKey) ∧
  (∀ (s : State) (h : Bytes32), s.kfLen = 0 → ({ s with kfh := h } : State).derivedKey = s.derivedKey)

/-- R131: a lane is enabled in the iteration stage while it owes an application; its step applies `Enc STRETCH_MEMBER`
under `TSEED` to its own half and counts down, and leaves the other lane's half and counter and everything else alone;
so the two lanes' steps may be taken in either order. -/
def Obligations.LanesStepIndependently : Prop :=
  (∀ (s : State) (j : LaneId), (∃ t, s.laneStep j = some t) ↔ s.phase = .stretch ∧ 0 < s.laneCnt[j].toNat) ∧
  (∀ (s t : State) (j : LaneId), s.laneStep j = some t →
    t.laneBlk j = Config.enc Config.stretchMember s.tseed (s.laneBlk j) ∧
    t.laneCnt[j].toNat + 1 = s.laneCnt[j].toNat ∧
    (∀ k : LaneId, k ≠ j → t.laneBlk k = s.laneBlk k ∧ t.laneCnt[k] = s.laneCnt[k]) ∧
    t = { s with baseBuf := t.baseBuf, laneCnt := t.laneCnt }) ∧
  (∀ s : State, (s.laneEncStep 0).laneEncStep 1 = (s.laneEncStep 1).laneEncStep 0)

/-- R153: the table of the normalizer, for every stream and every way it ended. -/
def Obligations.NormalizeFollowsTheTable : Prop :=
  ∀ (P : Config.Primitives) (s : Bytes) (e : KfEnd),
    (s.length = 32 → ∃ h, normalize P s e = .ok h ∧ h.toList = s) ∧
    (∀ d, s.length = 64 → hexDecode32 s = some d → normalize P s e = .ok d) ∧
    (s.length ≠ 32 → ¬ (s.length = 64 ∧ ∃ d, hexDecode32 s = some d) →
      (e = .eos → normalize P s e = .ok (P.hds s)) ∧ (∀ c, e = .err c → normalize P s e = .error c))

/-- R152: `hexval` is `b - 0x30`, `b - 0x61 + 10` or `b - 0x41 + 10` on the three ranges of digits and none elsewhere;
decoding 64 characters fails exactly when one of them is no hexadecimal digit; otherwise byte `i` is
`16·hexval(t[2i]) + hexval(t[2i+1])`. The alphabet and the nibble order are general knowledge in the spec's own words
(decision D21, log 12). -/
def Obligations.HexDecodeFailsExactlyOnANonDigit : Prop :=
  (∀ b : Byte,
    (0x30 ≤ b.toNat ∧ b.toNat ≤ 0x39 → hexval b = some (b.toNat - 0x30)) ∧
    (0x61 ≤ b.toNat ∧ b.toNat ≤ 0x66 → hexval b = some (b.toNat - 0x61 + 10)) ∧
    (0x41 ≤ b.toNat ∧ b.toNat ≤ 0x46 → hexval b = some (b.toNat - 0x41 + 10))) ∧
  (∀ b : Byte, (∃ v, hexval b = some v) ↔
    (0x30 ≤ b.toNat ∧ b.toNat ≤ 0x39) ∨ (0x61 ≤ b.toNat ∧ b.toNat ≤ 0x66) ∨ (0x41 ≤ b.toNat ∧ b.toNat ≤ 0x46)) ∧
  (∀ t : Bytes, t.length = 64 →
    (hexDecode32 t = none ↔ ∃ i, i < 64 ∧ hexval (t.getD i 0) = none) ∧
    (∀ d, hexDecode32 t = some d → ∀ (i : Nat) (hi : i < 32), ∃ hiN loN,
      hexval (t.getD (2 * i) 0) = some hiN ∧ hexval (t.getD (2 * i + 1) 0) = some loN ∧
      hiN < 16 ∧ loN < 16 ∧ d[i].toNat = 16 * hiN + loN))

/-- R171, R172, R174: the select step is the same for both recognised identifiers, and every other identifier is
unsupported. -/
def Obligations.RecognisedIdentifiersSelectTheSameCipher : Prop :=
  (∀ s : State, ({ s with cid := 0x00 } : State).selectStep =
    { ({ s with cid := 0x01 } : State).selectStep with cid := 0x00 }) ∧
  (∀ (cid : Byte) (key : Bytes32), (select cid key = none ↔ cid ≠ 0x00 ∧ cid ≠ 0x01) ∧
    (∀ inst, select cid key = some inst → inst.member.val = 0 ∧ inst.key = key ∧ inst.blockSize = 16))

/-! ## The sequencer -/

/-- R130, R133, R134: the sequencer's steps of a derivation: base and fork; the join, enabled exactly when both lanes have
finished; the final step, which commits the key for `DERIVE` and goes on to the select step for `OPEN`. -/
def Obligations.SequencerStepsOfTheDerivation : Prop :=
  ∀ s : State, MachineInv s → s.op = .derive ∨ s.op = .openSession →
    (s.phase = .base → s.sequencerStep = some { s with
      baseBuf :=
        if s.kfLen = 0 then Config.hgp s.password
        else if s.pwLen = 0 then s.kfh
        else Config.hds ((Config.hgp s.password).toList ++ s.kfh.toList)
      laneCnt := Vector.replicate 2 s.rounds, phase := .stretch }) ∧
    (s.phase = .stretch → s.laneCnt[0] = 0 ∧ s.laneCnt[1] = 0 → s.sequencerStep = some { s with
      keyTmp := Config.hds (s.mseed.toList ++ (Config.hgp s.baseBuf.toList).toList)
      baseBuf := zero32, phase := .final }) ∧
    (s.phase = .stretch → ¬ (s.laneCnt[0] = 0 ∧ s.laneCnt[1] = 0) → s.sequencerStep = none) ∧
    (s.phase = .final → s.op = .derive → s.sequencerStep = some { s with
      ckey := s.keyTmp, keyTmp := zero32, done := true, busy := false, op := .none, phase := .idle }) ∧
    (s.phase = .final → s.op = .openSession → s.sequencerStep = some { s with phase := .select })

/-- R174: the select step, all in one: a derived key goes to `CKEY`; a recognised identifier opens a session with member 0,
the resolved key, `IV` and the latched direction, and completes; any other completes with `E_UNSUPPORTED`, `INFO = CID`,
and the session latches, which are zero while an `OPEN` is in flight, stay zero. -/
def Obligations.SelectStepOpensOrReports : Prop :=
  (∀ s : State, s.op = .openSession → s.phase = .select →
    s.sequencerStep = some
      (if s.cid = 0x00 ∨ s.cid = 0x01 then
        { s with
          ckey := (if s.cKs = .derived then s.keyTmp else s.ckey)
          sess := ⟨true, 0, s.keyTmp, s.iv, s.cDir⟩
          done := true, busy := false, op := .none, phase := .idle, cKs := .derived, cDir := .encrypt
          cClr := ⟨false, false, false⟩, baseBuf := zero32, laneCnt := Vector.replicate 2 0, keyTmp := zero32
          kfAll := [], kfEnd := .none }
      else
        { s with
          ckey := (if s.cKs = .derived then s.keyTmp else s.ckey)
          err := true
          errcode := if s.err then s.errcode else BitVec.ofNat 32 (s.cid.toNat * 256 + 0x01)
          done := false, busy := false, op := .none, phase := .idle, cKs := .derived, cDir := .encrypt
          cClr := ⟨false, false, false⟩, baseBuf := zero32, laneCnt := Vector.replicate 2 0, keyTmp := zero32
          kfAll := [], kfEnd := .none })) ∧
  (∀ s : State, MachineInv s → s.op = .openSession → s.phase = .select → ¬ (s.cid = 0x00 ∨ s.cid = 0x01) →
    s.sess = ⟨false, 0, zero32, zero16, .encrypt⟩ ∧
    ∃ t, s.sequencerStep = some t ∧ t.sess = ⟨false, 0, zero32, zero16, .encrypt⟩)

/-- R160: the finish step: `KFH` and `KF_LEN = 32` on a normalized hash; on a source error `E_IO` with its code, `KFH` and
`KM_LEN` not written. Either way the stream is gone. -/
def Obligations.FinishStepStoresTheHashOrReports : Prop :=
  ∀ s : State, MachineInv s → s.op = .kfread → s.phase = .kfFinish →
    (∀ h, normalize Config.primitives s.kfAll s.kfEnd = .ok h →
      s.sequencerStep = some { s with
        kfh := h, kfLen := 32, done := true, busy := false, op := .none, phase := .idle, kfAll := [], kfEnd := .none }) ∧
    (∀ c, normalize Config.primitives s.kfAll s.kfEnd = .error c →
      s.sequencerStep = some { s with
        err := true
        errcode := if s.err then s.errcode else BitVec.ofNat 32 (c.toNat * 256 + 0x03)
        done := false, busy := false, op := .none, phase := .idle, kfAll := [], kfEnd := .none })

/-! ## Whole commands -/

/-- R120, R135: from an idle block, with an empty agenda (the block's own agents go on in the order of log 2), `DERIVE`
completes after exactly `2·ROUNDS + 3` internal steps with `CKEY = compute(…)` of the registers at issue, `DONE` set and
everything else as it was; in every state before that the block is busy and `CKEY` is unchanged. -/
def Obligations.DeriveRunsToCompletion : Prop :=
  ∀ s : State, MachineInv s → s.busy = false → s.lengthsLegal = true → s.agenda = [] →
    ∃ t, exec .derive s = .next t ∧
      stateAfter (2 * s.rounds.toNat + 3) t =
        some { s with
          bus := .ok, done := true
          ckey := compute Config.primitives s.password s.keyFile s.mseed s.tseed s.rounds.toNat } ∧
      ∀ k, k < 2 * s.rounds.toNat + 3 → ∃ u, stateAfter k t = some u ∧ u.busy = true ∧ u.ckey = s.ckey

/-- R135, R125: under ANY order of the agents' steps, the step that ends a `DERIVE` (other than reset) leaves
`CKEY = compute(…)` of the registers, `DONE` set, no error, everything else but the datapath as it was. -/
def Obligations.EveryScheduleDerivesTheSameKey : Prop :=
  ∀ s t : State, MachineInv s → DerivationInv s → s.op = .derive → step s = .next t → t.op ≠ .derive →
    (∃ rest, s.agenda = .reset :: rest) ∨
    t = { s with
      agenda := s.agenda.tail, done := true, busy := false, op := .none, phase := .idle, keyTmp := zero32
      ckey := compute Config.primitives s.password s.keyFile s.mseed s.tseed s.rounds.toNat }

/-- R135, R273 (that a turn with no enabled step passes is the model's choice, log 1): under weak fairness `DERIVE` always
completes: any agenda made of at least `2·ROUNDS + 3` stretches, in each of which the sequencer and both lanes get a turn,
in whatever order, runs it to completion with the same key. -/
def Obligations.DeriveCompletesUnderEveryFairSchedule : Prop :=
  ∀ (s : State) (rounds : List (List Action)),
    MachineInv s → s.busy = false → s.lengthsLegal = true →
    2 * s.rounds.toNat + 3 ≤ rounds.length → (∀ l ∈ rounds, fairRound l) →
    ∃ t, exec .derive s = .next t ∧
      stateAfter rounds.flatten.length { t with agenda := rounds.flatten } =
        some { s with
          agenda := [], bus := .ok, done := true
          ckey := compute Config.primitives s.password s.keyFile s.mseed s.tseed s.rounds.toNat }

/-- R150, R162: if the host pushes the events of a finished stream `(bs, e)` in order, `KFREAD` completes one step after
the last with the outcome of `normalize`: `KFH` and `KF_LEN` written and `DONE` set, or `E_IO` recorded and nothing
written. -/
def Obligations.KfreadOfAFinishedStreamNormalizesIt : Prop :=
  ∀ (s : State) (bs : Bytes) (e : KfEnd), MachineInv s → s.busy = false → e ≠ .none →
    ∃ t, exec .kfread s = .next t ∧
      stateAfter (bs.length + 2) { t with agenda := streamActions bs e } =
        some (match normalize Config.primitives bs e with
          | .ok h => { s with agenda := [], bus := .ok, done := true, kfh := h, kfLen := 32 }
          | .error c => { s with
              agenda := [], bus := .ok, done := false, err := true
              errcode := if s.err then s.errcode else BitVec.ofNat 32 (c.toNat * 256 + 0x03) })

/-- R265: an open key-file stream ends only with `EOS`, `SRCERR` or reset; until then the block stays busy. -/
def Obligations.KfreadStaysBusyUntilItsStreamEnds : Prop :=
  ∀ s t : State, MachineInv s → s.phase = .kfStream → step s = .next t →
    (t.phase = .kfStream ∧ t.op = .kfread ∧ t.busy = true) ∨
    (∃ rest, s.agenda = .reset :: rest) ∨
    (∃ w rest, s.agenda = .host (.write 0x01C 4 w) :: rest ∧
      (decode .kfPush w = .instr .eos ∨ ∃ c, decode .kfPush w = .instr (.srcerr c)))

/-- R170, R173, R174: `OPEN ks=1` closes any earlier session at issue and completes in one internal step: a recognised
identifier opens a session with member 0, `CKEY`, `IV` and the direction; any other records `E_UNSUPPORTED` with
`INFO = CID` and leaves no session. `CKEY` and all else unchanged. -/
def Obligations.OpenWithSuppliedKeyRunsToCompletion : Prop :=
  ∀ (s : State) (dir : Direction), MachineInv s → s.busy = false → s.agenda = [] →
    ∃ t, exec (.openSession .supplied dir) s = .next t ∧ t.sess = ⟨false, 0, zero32, zero16, .encrypt⟩ ∧
      stateAfter 1 t =
        some (if s.cid = 0x00 ∨ s.cid = 0x01 then
            { s with bus := .ok, done := true, sess := ⟨true, 0, s.ckey, s.iv, dir⟩ }
          else
            { s with
              bus := .ok, done := false, sess := ⟨false, 0, zero32, zero16, .encrypt⟩, err := true
              errcode := if s.err then s.errcode else BitVec.ofNat 32 (s.cid.toNat * 256 + 0x01) })

/-- R170, R173 to R175: `OPEN ks=0` derives the key (the block's own agents in the order of log 2), writes it to `CKEY`
whether or not the identifier is recognised, and then selects, in `2·ROUNDS + 4` internal steps. -/
def Obligations.OpenWithDerivedKeyRunsToCompletion : Prop :=
  ∀ (s : State) (dir : Direction), MachineInv s → s.busy = false → s.lengthsLegal = true → s.agenda = [] →
    ∃ t, exec (.openSession .derived dir) s = .next t ∧ t.sess = ⟨false, 0, zero32, zero16, .encrypt⟩ ∧
      ∀ key, key = compute Config.primitives s.password s.keyFile s.mseed s.tseed s.rounds.toNat →
        stateAfter (2 * s.rounds.toNat + 4) t =
          some (if s.cid = 0x00 ∨ s.cid = 0x01 then
              { s with bus := .ok, done := true, ckey := key, sess := ⟨true, 0, key, s.iv, dir⟩ }
            else
              { s with
                bus := .ok, done := false, ckey := key, sess := ⟨false, 0, zero32, zero16, .encrypt⟩, err := true
                errcode := if s.err then s.errcode else BitVec.ofNat 32 (s.cid.toNat * 256 + 0x01) })

/-- R176: `OPEN ks=0`, and `DERIVE` followed by `OPEN ks=1`, end in the same state. The three runs take the block's own agents
in the model's order (log 2). -/
def Obligations.OpenDerivedEqualsDeriveThenOpenSupplied : Prop :=
  ∀ (s : State) (dir : Direction), MachineInv s → s.busy = false → s.lengthsLegal = true → s.agenda = [] →
    ∃ t u u' v w, exec (.openSession .derived dir) s = .next t ∧ exec .derive s = .next u ∧
      stateAfter (2 * s.rounds.toNat + 3) u = some u' ∧ exec (.openSession .supplied dir) u' = .next v ∧
      stateAfter (2 * s.rounds.toNat + 4) t = some w ∧ stateAfter 1 v = some w

/-- R190, R191, R192: `CLEAR`, word `0x004 + 0x400·km + 0x800·ckey + 0x1000·sess`, completes in one internal step; each
mask bit zeroes exactly its registers (`CLR_KM` all of `PW`, not only the first `PW_LEN` bytes) and nothing else changes
but `DONE`. -/
def Obligations.ClearZeroesExactlyWhatItsMaskNames : Prop :=
  (∀ km ckey sess : Bool,
    encode (.clear km ckey sess) = BitVec.ofNat 32 (0x004 + 0x400 * km.toNat + 0x800 * ckey.toNat + 0x1000 * sess.toNat) ∧
    decode .cmd (encode (.clear km ckey sess)) = .instr (.clear km ckey sess)) ∧
  ∀ (s : State) (km ckey sess : Bool), MachineInv s → s.busy = false → s.agenda = [] →
    ∃ t u, exec (.clear km ckey sess) s = .next t ∧ stateAfter 1 t = some u ∧
      (∀ i, u.readByte .pw i = if km then 0 else s.readByte .pw i) ∧
      u = { s with
        bus := .ok, done := true, pw := u.pw
        pwLen := if km then 0 else s.pwLen
        kfLen := if km then 0 else s.kfLen
        kfh := if km then zero32 else s.kfh
        ckey := if ckey then zero32 else s.ckey
        sess := if sess then ⟨false, 0, zero32, zero16, .encrypt⟩ else s.sess }

/-- R135, R273: every enabled internal step lowers the number of internal steps still to come by exactly one; host
accesses and codec errors leave it alone while a command is in flight; and a command in flight always has an internal
step enabled, but for a `KFREAD` that awaits its stream. -/
def Obligations.InternalStepsCountDownToCompletion : Prop :=
  (∀ (s t : State) (a : Action), MachineInv s → s.internalStep a = some t → t.internalWork + 1 = s.internalWork) ∧
  (∀ (s t : State) (a : Action), MachineInv s → s.busy = true → a.internal = false → a ≠ .reset → act a s = .next t →
    t.internalWork = s.internalWork) ∧
  (∀ s : State, MachineInv s → s.busy = true → s.phase ≠ .kfStream → ∃ a t, s.internalStep a = some t)

/-! ## Invariants -/

/-- The invariants hold after reset (R33, R36, R40, R46, R48). -/
def Obligations.ResetMeetsTheInvariants : Prop :=
  MachineInv State.reset ∧ DerivationInv State.reset

/-- R33, R36, R40 to R46: every step, of any agent in any order, keeps the invariants. -/
def Obligations.StepKeepsTheInvariants : Prop :=
  ∀ s t : State, MachineInv s → step s = .next t → MachineInv t

/-- R131 to R134: every step, of any agent in any order, keeps the invariant of a derivation in flight: each lane holds
`stretch` of its half by the rounds it has done, and after the join `KEYTMP` is the derived key. -/
def Obligations.StepKeepsTheDerivationInvariant : Prop :=
  ∀ s t : State, MachineInv s → DerivationInv s → step s = .next t → DerivationInv t

/-- R46: between commands every hidden register is zero, so the whole state is the bus-visible registers plus the session
latches; and a step that ends a command in flight leaves it so. -/
def Obligations.HiddenStateIsDeadOutsideACommand : Prop :=
  (∀ s : State, MachineInv s → s.busy = false →
    s.op = .none ∧ s.phase = .idle ∧ s.baseBuf = zero32 ∧ (∀ j : LaneId, s.laneCnt[j] = 0) ∧ s.keyTmp = zero32 ∧
    s.kfAll = [] ∧ s.kfEnd = .none ∧ s.cKs = .derived ∧ s.cDir = .encrypt ∧ s.cClr = ⟨false, false, false⟩) ∧
  (∀ s t : State, MachineInv s → step s = .next t → s.busy = true → t.busy = false →
    t.baseBuf = zero32 ∧ t.keyTmp = zero32 ∧ t.kfAll = [] ∧ t.kfEnd = .none ∧ t.cKs = .derived ∧ t.cDir = .encrypt ∧
    t.cClr = ⟨false, false, false⟩ ∧ ∀ j : LaneId, t.laneCnt[j] = 0)

/-! ## Whole-machine rules -/

/-- R25, R26, R27, R29, R30, R34: the seeds, the round count, the IV, the identifier and the interrupt enables are
written only by reset and by a host write inside the register's own window at an idle block; no command changes them. -/
def Obligations.ParametersAreWrittenOnlyByTheHost : Prop :=
  ∀ s t : State, step s = .next t →
    (t.mseed ≠ s.mseed → s.resetsNext ∨ hostWrote s t 0x020 0x030) ∧
    (t.tseed ≠ s.tseed → s.resetsNext ∨ hostWrote s t 0x040 0x060) ∧
    (t.rounds ≠ s.rounds → s.resetsNext ∨ hostWrote s t 0x010 0x014) ∧
    (t.iv ≠ s.iv → s.resetsNext ∨ hostWrote s t 0x0A0 0x0B0) ∧
    (t.cid ≠ s.cid → s.resetsNext ∨ hostWrote s t 0x018 0x01C) ∧
    (t.doneIe ≠ s.doneIe ∨ t.errIe ≠ s.errIe → s.resetsNext ∨ hostWrote s t 0x00C 0x010)

/-- R28: `CKEY` is written by host writes inside its window at an idle block, by `DERIVE` and by `OPEN ks=0` on completion
(from `KEYTMP`), by `CLEAR ckey` (zeroed) and by reset, and by nothing else. -/
def Obligations.CkeyHasExactlyFiveWriters : Prop :=
  ∀ s t : State, step s = .next t → t.ckey ≠ s.ckey →
    (∃ rest, s.agenda = .reset :: rest) ∨
    (∃ off v rest, s.agenda = .host (.write off 4 v) :: rest ∧ 0x080 ≤ off ∧ off < 0x0A0 ∧ s.busy = false) ∨
    (s.op = .derive ∧ s.phase = .final ∧ t.ckey = s.keyTmp ∧ t.busy = false ∧ t.done = true) ∨
    (s.op = .openSession ∧ s.phase = .select ∧ s.cKs = .derived ∧ t.ckey = s.keyTmp ∧ t.busy = false) ∨
    (s.op = .clear ∧ s.phase = .clear ∧ s.cClr.ckey = true ∧ t.ckey = zero32 ∧ t.busy = false)

/-- R36, R76: what the cipher port presents changes only when an `OPEN` is issued (closed), when its select step opens a
session, by `CLEAR sess` (closed) and by reset. -/
def Obligations.CipherPortChangesOnlyAtOpenClearReset : Prop :=
  ∀ s t : State, step s = .next t → t.cipherPort ≠ s.cipherPort →
    (∃ rest, s.agenda = .reset :: rest) ∨
    (s.busy = false ∧ t.op = .openSession ∧ t.sess = ⟨false, 0, zero32, zero16, .encrypt⟩) ∨
    (s.op = .openSession ∧ s.phase = .select ∧ t.sess = ⟨true, 0, s.keyTmp, s.iv, s.cDir⟩ ∧ t.done = true) ∨
    (s.op = .clear ∧ s.phase = .clear ∧ s.cClr.sess = true ∧ t.sess = ⟨false, 0, zero32, zero16, .encrypt⟩)

/-- R103: `LDB` at an idle block loads the zero-padded bytes into the register, answers `OK` to each of its writes, and
leaves every other byte of every byte-array register and everything else as it was. The script runs under the EMPTY
schedule, so no other agent moves between its writes; that form is the MODEL'S CHOICE (log 18), and the statement does not
speak of runs in which a codec error or a reset comes between them (R70). The premise on `PW` is the canonical form of its
representation (log 8). That `<REG>` names a byte-array register is the MODEL'S CHOICE (log 23). -/
def Obligations.LoadBytesScriptFillsTheRegister : Prop :=
  ∀ (s : State) (r : ByteReg) (bs : Bytes),
    Memory.wf s.pw → s.busy = false → (HostLine.ldb r bs).wellFormed = true →
    ∃ p t, s.runScript [] [.ldb r bs] = some ([.responses (List.replicate ((padToWord bs).length / 4) .ok)], p) ∧
      p.state = t ∧
      (∀ i, i < (padToWord bs).length → t.readByte r i = bs.getD i 0) ∧
      (∀ (q : ByteReg) (i : Nat), ¬ (q = r ∧ i < (padToWord bs).length) → t.readByte q i = s.readByte q i) ∧
      t = { s with
        agenda := (if bs = [] then s.agenda else []), bus := (if bs = [] then s.bus else .ok)
        pw := t.pw, mseed := t.mseed, tseed := t.tseed, kfh := t.kfh, ckey := t.ckey, iv := t.iv }

/-! ## The external codec's contract (no part of GPKDE; log 10) -/

/-- R201 to R207, R210: what the codec encrypts over a port it decrypts over a port that differs only in direction, for
every plaintext. Rests on the general-knowledge formulas of R201 and R207 (PRESUMED, log 10). -/
def Obligations.CodecRoundTrip : Prop :=
  ∀ (p q : CipherPort) (plain : Bytes), p.valid = true → p.dir = .encrypt → q = { p with dir := .decrypt } →
    ∃ cipher, codecRun p plain = some (.ok cipher) ∧ codecRun q cipher = some (.ok plain) ∧
      cipher.length = 16 * (plain.length / 16 + 1)

/-- R206, R209: a ciphertext whose length is not a multiple of 16 gives the misaligned-ciphertext error and no output, and
the error reaches `ERRCODE` as 0x02 if no error was recorded before. -/
def Obligations.MisalignedCiphertextIsReported : Prop :=
  ∀ (s : State) (c : Bytes), s.sess.valid = true → s.sess.dir = .decrypt → c.length % 16 ≠ 0 → s.err = false →
    ∃ r a t, codecRun s.cipherPort c = some r ∧ r = .error .misaligned 0 ∧ r.report = some a ∧ act a s = .next t ∧
      t = { s with err := true, errcode := 0x00000002 }

/-! ## Key material, scripts, failing streams -/

/-- R22, R23, R24: `PW`, `PW_LEN`, `KF_LEN` and `KFH` are written by reset, by a host write inside the register's own window
at an idle block, by `CLEAR km` (zeroed), and `KF_LEN` (to 32) and `KFH` by a successful `KFREAD`; by nothing else. -/
def Obligations.KeyMaterialHasOnlyItsWriters : Prop :=
  ∀ s t : State, step s = .next t →
    (t.pw ≠ s.pw → s.resetsNext ∨ hostWrote s t 0x100 (0x100 + Config.pwMax) ∨
      (clearedKm s t ∧ ∀ i, t.readByte .pw i = 0)) ∧
    (t.pwLen ≠ s.pwLen → s.resetsNext ∨ hostWrote s t 0x014 0x018 ∨ (clearedKm s t ∧ t.pwLen = 0)) ∧
    (t.kfLen ≠ s.kfLen → s.resetsNext ∨ hostWrote s t 0x014 0x018 ∨ (clearedKm s t ∧ t.kfLen = 0) ∨
      ∃ h, storedHash s t h ∧ t.kfLen = 32) ∧
    (t.kfh ≠ s.kfh → s.resetsNext ∨ hostWrote s t 0x060 0x080 ∨ (clearedKm s t ∧ t.kfh = zero32) ∨
      ∃ h, storedHash s t h ∧ t.kfh = h)

/-- R103, R273: `WAIT`, under any schedule of the other agents, ends with the first poll that reads `BUSY = 0`, at which
every earlier poll read `BUSY = 1`; its result is that value of `STATUS`. A schedule is the model's (log 18). -/
def Obligations.WaitEndsWithTheFirstPollOfAnIdleBlock : Prop :=
  ∀ (s : State) (sched : Schedule) (v : Word) (p : Progress),
    s.runScript sched [.wait] = some ([.value v], p) ↔
      ∃ k, k ≤ sched.length ∧ s.runActions (pollActions sched k) = some p.state ∧
        p.state.busy = false ∧ v = p.state.statusWord ∧
        p.taken = pollActions sched k ∧ p.sched = sched.drop (k + 1) ∧
        ∀ j, j < k → ∃ u, s.runActions (pollActions sched j) = some u ∧ u.busy = true

/-- R273, R265: `WAIT` ends while any command is in flight if the block's own agents are scheduled fairly for as many polls
as there are internal steps to come; and it does not end on a `KFREAD` whose stream nobody ends. A schedule is the
model's (log 18). -/
def Obligations.WaitEndsExactlyWhenTheCommandCompletes : Prop :=
  (∀ (s : State) (sched : Schedule), MachineInv s → s.busy = true → s.phase ≠ .kfStream →
    s.internalWork ≤ sched.length → (∀ turns ∈ sched, fairRound turns) →
    ∃ v p, s.runScript sched [.wait] = some ([.value v], p) ∧ p.state.busy = false ∧ v = p.state.statusWord) ∧
  (∀ (s : State) (sched : Schedule), MachineInv s → s.phase = .kfStream →
    (∀ turns ∈ sched, ∀ a ∈ turns, a.internal = true) → s.runScript sched [.wait] = none)

/-- R103, R62: `RDB` of any byte-array register, busy or not, gives all its bytes in order and changes nothing. The script
runs under the EMPTY schedule, so no other agent moves between its reads; that form is the MODEL'S CHOICE (log 18). Where
another agent does move there, a command that completes may change `CKEY` or `KFH` between two reads (R70); the statement
does not speak of such runs. That `<REG>` names a byte-array register is the MODEL'S CHOICE (log 23). -/
def Obligations.ReadBytesScriptReturnsTheRegister : Prop :=
  ∀ (s : State) (r : ByteReg),
    ∃ p, s.runScript [] [.rdb r] = some ([.bytes ((List.range r.size).map (s.readByte r))], p) ∧
      p.state = { s with agenda := [], bus := p.state.bus }

/-- R208, R209: an I/O failure of the stream under the codec, in either direction and after any bytes, is reported as
`CodecErr(0x03, c)` with the stream's own code, and reaches `ERRCODE` unless an error was recorded before. The codec is no
part of GPKDE (log 10); that the failure comes before the tests at the end of the input is log 21. -/
def Obligations.CodecIoFailureIsReportedVerbatim : Prop :=
  ∀ (s : State) (bs : Bytes) (c : Byte), s.sess.valid = true →
    ∃ a t, codecStream s.cipherPort bs (.failed c) = some (.error .io c) ∧
      (CodecResult.error .io c).report = some a ∧ act a s = .next t ∧
      t = { s with err := true, errcode := if s.err then s.errcode else BitVec.ofNat 32 (c.toNat * 256 + 0x03) }
end

