-- ==== Sys2Proof/Laws/Kdf.lean ====
section
/-! SUPPORT. Laws of the two halves of a 32-byte buffer (R123, R126, R131) and of `stretch` (R124). -/

namespace Sys2Proof.Machine

@[simp] theorem getElem_half (buf : Bytes32) (j : LaneId) (i : Nat) (h : i < 16) :
    (half buf j)[i] = buf[16 * j.val + i]'(by omega) := by
  simp only [half, Vector.getElem_ofFn]

theorem getElem_setHalf (buf : Bytes32) (j : LaneId) (x : Bytes16) (i : Nat) (h : i < 32) :
    (setHalf buf j x)[i] = if i / 16 = j.val then x[i % 16]'(by omega) else buf[i] := by
  simp only [setHalf, Vector.getElem_ofFn]

theorem getElem_joinHalves (a b : Bytes16) (i : Nat) (h : i < 32) :
    (joinHalves a b)[i] = if i / 16 = 0 then a[i % 16]'(by omega) else b[i % 16]'(by omega) := by
  simp only [joinHalves, Vector.getElem_ofFn]

/-- Two blocks with equal bytes are equal. -/
theorem bytes_ext {n : Nat} {a b : Vector Byte n} (h : ∀ i (hi : i < n), a[i] = b[i]) : a = b :=
  Vector.ext h

/-- Writing a half and reading it back. -/
theorem half_setHalf_same (buf : Bytes32) (j : LaneId) (x : Bytes16) : half (setHalf buf j x) j = x := by
  apply bytes_ext
  intro i hi
  rw [getElem_half _ _ _ hi, getElem_setHalf, if_pos (by omega)]
  congr 1; omega

/-- The lanes own disjoint halves of the buffer (R42). -/
theorem half_setHalf_other (buf : Bytes32) (j k : LaneId) (x : Bytes16) (h : k ≠ j) :
    half (setHalf buf j x) k = half buf k := by
  apply bytes_ext
  intro i hi
  have hjk : k.val ≠ j.val := fun e => h (Fin.ext e)
  rw [getElem_half _ _ _ hi, getElem_half _ _ _ hi, getElem_setHalf, if_neg (by omega)]

/-- A buffer is its two halves, half 0 first (R123, R126). -/
theorem joinHalves_half (buf : Bytes32) : joinHalves (half buf 0) (half buf 1) = buf := by
  apply bytes_ext
  intro i hi
  rw [getElem_joinHalves _ _ _ hi]
  split
  · rw [getElem_half _ _ _ (by omega)]; congr 1; simp; omega
  · rw [getElem_half _ _ _ (by omega)]; congr 1; simp; omega

theorem half_joinHalves_zero (a b : Bytes16) : half (joinHalves a b) 0 = a := by
  apply bytes_ext
  intro i hi
  rw [getElem_half _ _ _ hi, getElem_joinHalves, if_pos (by simp; omega)]
  congr 1; simp; omega

theorem half_joinHalves_one (a b : Bytes16) : half (joinHalves a b) 1 = b := by
  apply bytes_ext
  intro i hi
  rw [getElem_half _ _ _ hi, getElem_joinHalves, if_neg (by simp)]
  congr 1; simp; omega

@[simp] theorem stretch_zero (P : Config.Primitives) (ts : Bytes32) (h : Bytes16) : stretch P ts h 0 = h := rfl

theorem stretch_succ (P : Config.Primitives) (ts : Bytes32) (h : Bytes16) (n : Nat) :
    stretch P ts h (n + 1) = P.stretchEnc ts (stretch P ts h n) := rfl

/-- `compute` in terms of the buffer at the join (R133). -/
theorem compute_eq_finalKey (P : Config.Primitives) (pw : Bytes) (kf : Option Bytes32) (ms : Bytes16) (ts : Bytes32)
    (n : Nat) (buf : Bytes32) (h : ∀ j, half buf j = stretch P ts (half (baseHash P pw kf) j) n) :
    compute P pw kf ms ts n = finalKey P ms buf := by
  unfold compute
  rw [← h 0, ← h 1, joinHalves_half]

end Sys2Proof.Machine
end

