-- ==== Sys2Proof/Laws/Lane.lean ====
section
/-! SUPPORT. Everything a lane step does (R131): the lane's own half and counter, and nothing else. -/

namespace Sys2Proof.Machine

/-- The frame of a lane step: only `BASEBUF` and the counters move. -/
theorem laneEncStep_frame (s : State) (j : LaneId) :
    s.laneEncStep j =
      { s with baseBuf := (s.laneEncStep j).baseBuf, laneCnt := (s.laneEncStep j).laneCnt } := by
  simp only [State.laneEncStep]

@[simp] theorem laneEncStep_op (s : State) (j : LaneId) : (s.laneEncStep j).op = s.op := by
  simp only [State.laneEncStep]

@[simp] theorem laneEncStep_phase (s : State) (j : LaneId) : (s.laneEncStep j).phase = s.phase := by
  simp only [State.laneEncStep]

@[simp] theorem laneEncStep_rounds (s : State) (j : LaneId) : (s.laneEncStep j).rounds = s.rounds := by
  simp only [State.laneEncStep]

@[simp] theorem laneEncStep_tseed (s : State) (j : LaneId) : (s.laneEncStep j).tseed = s.tseed := by
  simp only [State.laneEncStep]

@[simp] theorem laneEncStep_agenda (s : State) (j : LaneId) : (s.laneEncStep j).agenda = s.agenda := by
  simp only [State.laneEncStep]

/-- The base of the key material depends on `PW`, `KM_LEN` and `KFH` alone (R120, R121). -/
theorem baseOfKeyMaterial_congr {s t : State} (h1 : t.pw = s.pw) (h2 : t.pwLen = s.pwLen) (h3 : t.kfLen = s.kfLen)
    (h4 : t.kfh = s.kfh) : t.baseOfKeyMaterial = s.baseOfKeyMaterial := by
  unfold State.baseOfKeyMaterial State.password State.keyFile
  rw [h1, h2, h3, h4]

/-- The derived key depends on six registers alone (R120). -/
theorem derivedKey_congr {s t : State} (h1 : t.pw = s.pw) (h2 : t.pwLen = s.pwLen) (h3 : t.kfLen = s.kfLen)
    (h4 : t.kfh = s.kfh) (h5 : t.mseed = s.mseed) (h6 : t.tseed = s.tseed) (h7 : t.rounds = s.rounds) :
    t.derivedKey = s.derivedKey := by
  unfold State.derivedKey State.password State.keyFile
  rw [h1, h2, h3, h4, h5, h6, h7]

@[simp] theorem laneEncStep_baseOfKeyMaterial (s : State) (j : LaneId) :
    (s.laneEncStep j).baseOfKeyMaterial = s.baseOfKeyMaterial := by
  apply baseOfKeyMaterial_congr <;> simp only [State.laneEncStep]

@[simp] theorem laneEncStep_derivedKey (s : State) (j : LaneId) : (s.laneEncStep j).derivedKey = s.derivedKey := by
  apply derivedKey_congr <;> simp only [State.laneEncStep]

/-- The lane's own block. -/
theorem laneBlk_laneEncStep_same (s : State) (j : LaneId) :
    (s.laneEncStep j).laneBlk j = Config.primitives.stretchEnc s.tseed (s.laneBlk j) :=
  half_setHalf_same _ _ _

/-- The other lane's block. -/
theorem laneBlk_laneEncStep_other (s : State) (j k : LaneId) (h : k ≠ j) :
    (s.laneEncStep j).laneBlk k = s.laneBlk k :=
  half_setHalf_other _ _ _ _ h

/-- The lane's own counter. -/
theorem laneCnt_laneEncStep_same (s : State) (j : LaneId) : (s.laneEncStep j).laneCnt[j] = s.laneCnt[j] - 1 := by
  simp only [State.laneEncStep, Fin.getElem_fin, Vector.getElem_set_self]

/-- The other lane's counter. -/
theorem laneCnt_laneEncStep_other (s : State) (j k : LaneId) (h : k ≠ j) :
    (s.laneEncStep j).laneCnt[k] = s.laneCnt[k] := by
  have hjk : j.val ≠ k.val := fun e => h (Fin.ext e.symm)
  simp only [State.laneEncStep, Fin.getElem_fin]
  exact Vector.getElem_set_ne _ _ hjk

/-- An enabled lane owes one application less after its step (R131, R136). -/
theorem laneCnt_laneEncStep_toNat (s : State) (j : LaneId) (h : s.laneCnt[j] ≠ 0) :
    (s.laneEncStep j).laneCnt[j].toNat + 1 = s.laneCnt[j].toNat := by
  rw [laneCnt_laneEncStep_same]
  have h0 : s.laneCnt[j].toNat ≠ 0 := fun e => h (BitVec.eq_of_toNat_eq e)
  have hl := s.laneCnt[j].isLt
  rw [BitVec.toNat_sub]
  generalize s.laneCnt[j].toNat = x at *
  simp
  omega

end Sys2Proof.Machine
end

