-- ==== Sys2Proof/Laws/Run.lean ====
section
/-! SUPPORT. Runs of several steps: one step at a time, and one run after another. -/

namespace Sys2Proof.Machine

@[simp] theorem stateAfter_zero (s : State) : stateAfter 0 s = some s := rfl

/-- The first step of a run. -/
theorem stateAfter_succ (k : Nat) {s t : State} (h : step s = .next t) : stateAfter (k + 1) s = stateAfter k t := by
  have hc : Sys2Proof.core.step s = .next t := h
  unfold stateAfter
  simp only [Host.Core.run, hc]

/-- A run that stops has no state after it. -/
theorem stateAfter_succ_refused (k : Nat) {s : State} {r : Refusal} (h : step s = .refused r) :
    stateAfter (k + 1) s = none := by
  have hc : Sys2Proof.core.step s = .refused r := h
  unfold stateAfter
  simp only [Host.Core.run, hc]

/-- One run after another. -/
theorem stateAfter_add (j k : Nat) {s t : State} (h : stateAfter j s = some t) :
    stateAfter (j + k) s = stateAfter k t := by
  induction j generalizing s with
  | zero => simp at h; subst h; simp
  | succ j ih =>
    cases hs : step s with
    | next u =>
      rw [stateAfter_succ j hs] at h
      rw [Nat.add_right_comm, stateAfter_succ (j + k) hs, ih h]
    | fault r => exact r.rec
    | refused r => rw [stateAfter_succ_refused j hs] at h; cases h

/-- With an empty agenda the block's own agents step (log 2). -/
theorem step_nil {s : State} (h : s.agenda = []) : step s = .next s.autoStep := by
  unfold step; rw [h]

/-- Otherwise the first action of the agenda is taken (R18, R77). -/
theorem step_cons {s : State} {a : Action} {rest : List Action} (h : s.agenda = a :: rest) :
    step s = act a { s with agenda := rest } := by
  unfold step; rw [h]

end Sys2Proof.Machine
end

