-- ==== Sys2Proof/Laws/Memory.lean ====
section
/-! SUPPORT. Laws of the sparse memory that holds `PW`: read after write, and every operation keeps the canonical
form. -/

namespace Sys2Proof.Machine.Memory

@[simp] theorem read_nil (a : Nat) : read [] a = unlisted := rfl

/-- Below every listed index a canonical memory reads the unlisted value. -/
theorem read_of_lt (m : Memory) (a : Nat) (h : ∀ c ∈ m, a < c.1) : read m a = unlisted := by
  induction m with
  | nil => rfl
  | cons c m ih =>
    obtain ⟨k, b⟩ := c
    have hk : a < k := h (k, b) List.mem_cons_self
    simp only [read]
    rw [if_neg (by omega)]
    exact ih fun c hc => h c (List.mem_cons_of_mem _ hc)

/-- A read after a write to the same place gives the value written. -/
theorem read_write_same (m : Memory) (hm : m.Pairwise (fun x y => x.1 < y.1)) (a : Nat) (b : Byte) :
    read (write m a b) a = b := by
  induction m with
  | nil => simp only [write]; split <;> simp_all [read]
  | cons c m ih =>
    obtain ⟨k, c⟩ := c
    have hlt : ∀ x ∈ m, k < x.1 := fun x hx => List.rel_of_pairwise_cons hm hx
    simp only [write]
    split
    · split
      · rename_i h1 h2
        subst h2
        exact read_of_lt _ _ (by
          intro x hx
          rcases List.mem_cons.1 hx with rfl | hx
          · exact h1
          · have := hlt x hx; omega)
      · simp [read]
    · split
      · rename_i h1 h2
        subst h2
        split
        · rename_i h3
          subst h3
          exact read_of_lt _ _ hlt
        · simp [read]
      · rename_i h1 h2
        simp only [read]
        rw [if_neg (fun h => h2 h.symm)]
        exact ih (List.Pairwise.of_cons hm)

/-- A write leaves every other place alone. -/
theorem read_write_other (m : Memory) (a : Nat) (b : Byte) (i : Nat) (h : i ≠ a) :
    read (write m a b) i = read m i := by
  induction m with
  | nil => simp only [write]; split <;> simp_all [read, eq_comm]
  | cons c m ih =>
    obtain ⟨k, c⟩ := c
    simp only [write]
    split
    · split <;> simp_all [read, eq_comm]
    · split
      · rename_i h1 h2
        subst h2
        split <;> simp_all [read, eq_comm]
      · simp only [read, ih]

/-- Every index listed after a write was listed before or is the one written. -/
theorem mem_write (m : Memory) (a : Nat) (b : Byte) (c : Host.Cell) (h : c ∈ write m a b) :
    c ∈ m ∨ (c = (a, b) ∧ b ≠ unlisted) := by
  induction m with
  | nil => simp only [write] at h; split at h <;> simp_all
  | cons d m ih =>
    obtain ⟨k, d⟩ := d
    simp only [write] at h
    split at h
    · split at h <;> simp_all
      tauto
    · split at h
      · split at h <;> simp_all
        tauto
      · rcases List.mem_cons.1 h with h | h
        · exact .inl (h ▸ List.mem_cons_self)
        · rcases ih h with h | h
          · exact .inl (List.mem_cons_of_mem _ h)
          · exact .inr h

theorem wf_nil : wf [] := ⟨List.Pairwise.nil, by simp⟩

/-- A write keeps the canonical form. -/
theorem wf_write (m : Memory) (hm : wf m) (a : Nat) (b : Byte) : wf (write m a b) := by
  constructor
  · obtain ⟨hs, -⟩ := hm
    induction m with
    | nil => simp only [write]; split <;> simp
    | cons c m ih =>
      obtain ⟨k, c⟩ := c
      have hlt : ∀ x ∈ m, k < x.1 := fun x hx => List.rel_of_pairwise_cons hs hx
      have ht := List.Pairwise.of_cons hs
      simp only [write]
      split
      · split
        · exact hs
        · rename_i h1 _
          refine List.Pairwise.cons ?_ hs
          intro x hx
          rcases List.mem_cons.1 hx with rfl | hx
          · exact h1
          · have := hlt x hx
            exact Nat.lt_trans h1 this
      · split
        · rename_i h1 h2
          subst h2
          split
          · exact ht
          · exact List.Pairwise.cons hlt ht
        · rename_i h1 h2
          refine List.Pairwise.cons ?_ (ih ht)
          intro x hx
          rcases mem_write m a b x hx with hx | ⟨rfl, -⟩
          · exact hlt x hx
          · show k < a; omega
  · intro c hc
    rcases mem_write m a b c hc with hc | ⟨rfl, hb⟩
    · exact hm.2 c hc
    · exact hb

end Sys2Proof.Machine.Memory
end

