-- ==== Sys2Proof/Laws/Bus.lean ====
section
/-! SUPPORT. Laws of the register map (R21, R65, R66) and of the byte-array registers (R62, R64). -/

namespace Sys2Proof.Machine

/-- The bytes of a word packed again give the word (R62). -/
theorem le32_byteOfWord (v : Word) :
    le32 (byteOfWord v 0) (byteOfWord v 1) (byteOfWord v 2) (byteOfWord v 3) = v := by
  apply BitVec.eq_of_toNat_eq
  simp only [le32, byteOfWord, field, BitVec.toNat_ofNat]
  have := v.isLt
  omega

/-- The search of the map, one row. -/
theorem find_holds_cons (r : RegRow) (rows : List RegRow) (off : Nat) :
    (r :: rows).find? (fun r => r.holds off) =
      if r.offset ≤ off ∧ off < r.size + r.offset then some r else rows.find? (fun r => r.holds off) := by
  rw [List.find?_cons]
  by_cases h : r.offset ≤ off ∧ off < r.size + r.offset
  · rw [if_pos h]
    have : r.holds off = true := by simpa [RegRow.holds] using h
    rw [this]
  · rw [if_neg h]
    have : r.holds off = false := by simpa [RegRow.holds] using h
    rw [this]

/-- The register map as ranges of offsets (R21, R66). -/
theorem busTarget_eq (off : Nat) (h : off % 4 = 0) :
    busTarget off 4 =
      if off < 0x004 then some (.cmd, off)
      else if off < 0x008 then some (.status, off - 0x004)
      else if off < 0x00C then some (.errcode, off - 0x008)
      else if off < 0x010 then some (.irqEn, off - 0x00C)
      else if off < 0x014 then some (.rounds, off - 0x010)
      else if off < 0x018 then some (.kmLen, off - 0x014)
      else if off < 0x01C then some (.cipherId, off - 0x018)
      else if off < 0x020 then some (.kfPush, off - 0x01C)
      else if off < 0x030 then some (.array .mseed, off - 0x020)
      else if off < 0x040 then none
      else if off < 0x060 then some (.array .tseed, off - 0x040)
      else if off < 0x080 then some (.array .kfh, off - 0x060)
      else if off < 0x0A0 then some (.array .ckey, off - 0x080)
      else if off < 0x0B0 then some (.array .iv, off - 0x0A0)
      else if off < 0x100 then none
      else if off < 0x100 + Config.pwMax then some (.array .pw, off - 0x100)
      else none := by
  have hp := Config.four_le_pwMax
  unfold busTarget registerMap
  rw [if_neg (by omega)]
  simp only [find_holds_cons, List.find?_nil]
  by_cases h1 : off < 4
  · rw [if_pos (by omega), if_pos h1]; rfl
  rw [if_neg (by omega), if_neg h1]
  by_cases h1 : off < 8
  · rw [if_pos (by omega), if_pos h1]
  rw [if_neg (by omega), if_neg h1]
  by_cases h1 : off < 0xC
  · rw [if_pos (by omega), if_pos h1]
  rw [if_neg (by omega), if_neg h1]
  by_cases h1 : off < 0x10
  · rw [if_pos (by omega), if_pos h1]
  rw [if_neg (by omega), if_neg h1]
  by_cases h1 : off < 0x14
  · rw [if_pos (by omega), if_pos h1]
  rw [if_neg (by omega), if_neg h1]
  by_cases h1 : off < 0x18
  · rw [if_pos (by omega), if_pos h1]
  rw [if_neg (by omega), if_neg h1]
  by_cases h1 : off < 0x1C
  · rw [if_pos (by omega), if_pos h1]
  rw [if_neg (by omega), if_neg h1]
  by_cases h1 : off < 0x20
  · rw [if_pos (by omega), if_pos h1]
  rw [if_neg (by omega), if_neg h1]
  by_cases h1 : off < 0x30
  · rw [if_pos (by omega), if_pos h1]
  rw [if_neg (by omega), if_neg h1]
  by_cases h1 : off < 0x40
  · simp only [if_pos h1]
    repeat rw [if_neg (by omega)]
  rw [if_neg h1]
  by_cases h1 : off < 0x60
  · rw [if_pos (by omega), if_pos h1]
  rw [if_neg (by omega), if_neg h1]
  by_cases h1 : off < 0x80
  · rw [if_pos (by omega), if_pos h1]
  rw [if_neg (by omega), if_neg h1]
  by_cases h1 : off < 0xA0
  · rw [if_pos (by omega), if_pos h1]
  rw [if_neg (by omega), if_neg h1]
  by_cases h1 : off < 0xB0
  · rw [if_pos (by omega), if_pos h1]
  rw [if_neg (by omega), if_neg h1]
  by_cases h1 : off < 0x100
  · rw [if_neg (by omega), if_pos h1]
  rw [if_neg h1]
  by_cases h1 : off < 0x100 + Config.pwMax
  · rw [if_pos (by omega), if_pos h1]
  rw [if_neg (by omega), if_neg h1]
/-- The rows of the map give each register its offset and size (R21). -/
theorem registerMap_row : ∀ r ∈ registerMap, r.reg.offset = r.offset ∧ r.reg.size = r.size := by
  simp [registerMap, Reg.offset, Reg.size, ByteReg.size]

/-- An access that the map accepts: the width and alignment of R65, and a byte inside the register (R21). -/
theorem busTarget_some {off size : Nat} {r : Reg} {i : Nat} (h : busTarget off size = some (r, i)) :
    size = 4 ∧ off % 4 = 0 ∧ off = r.offset + i ∧ i < r.size := by
  unfold busTarget at h
  split at h
  · cases h
  · split at h
    · rename_i row hrow
      have hmem := List.mem_of_find?_eq_some hrow
      have hholds := List.find?_some hrow
      obtain ⟨ho, hsz⟩ := registerMap_row row hmem
      simp only [RegRow.holds, Bool.and_eq_true, decide_eq_true_eq] at hholds
      simp only [Option.some.injEq, Prod.mk.injEq] at h
      obtain ⟨rfl, rfl⟩ := h
      omega
    · cases h

/-- Byte-array registers, word by word (R62). -/
theorem busTarget_array (r : ByteReg) (k : Nat) (h : 4 * k + 4 ≤ r.size) :
    busTarget ((Reg.array r).offset + 4 * k) 4 = some (.array r, 4 * k) := by
  cases r <;> simp only [ByteReg.size] at h <;> simp only [Reg.offset] <;> rw [busTarget_eq _ (by omega)]
  all_goals
    repeat rw [if_neg (by omega)]
    rw [if_pos (by omega), Nat.add_sub_cancel_left]

/-- The sizes are multiples of 4 (R21, R7). -/
theorem ByteReg.size_mod_four (r : ByteReg) : r.size % 4 = 0 := by
  cases r <;> simp [ByteReg.size, Config.pwMax_mod_four]

/-- A byte just written reads back, the index inside the register (R64). -/
theorem readByte_writeByte_same (s : State) (hm : Memory.wf s.pw) (r : ByteReg) (i : Nat) (hi : i < r.size) (b : Byte) :
    (s.writeByte r i b).readByte r i = b := by
  cases r <;> simp only [ByteReg.size] at hi <;> simp only [State.writeByte, State.readByte]
  case pw => exact Memory.read_write_same _ hm.1 _ _
  all_goals rw [Vector.getElem?_setIfInBounds]; simp [hi]

/-- Every other byte of every byte-array register is unchanged (R64). -/
theorem readByte_writeByte_other (s : State) (r q : ByteReg) (i j : Nat) (b : Byte) (h : ¬ (q = r ∧ j = i)) :
    (s.writeByte r i b).readByte q j = s.readByte q j := by
  cases r <;> cases q <;> simp only [State.writeByte, State.readByte]
  case pw.pw => exact Memory.read_write_other _ _ _ _ (fun e => h ⟨rfl, e⟩)
  all_goals
    rw [Vector.getElem?_setIfInBounds]
    rw [if_neg (fun e => h ⟨rfl, e.symm⟩)]

/-- A byte write keeps the canonical form of `PW`. -/
theorem writeByte_pw_wf (s : State) (hm : Memory.wf s.pw) (r : ByteReg) (i : Nat) (b : Byte) :
    Memory.wf (s.writeByte r i b).pw := by
  cases r <;> simp only [State.writeByte] <;> first | exact hm | exact Memory.wf_write _ hm _ _

/-- A word write keeps the canonical form of `PW`. -/
theorem writeWord_pw_wf (s : State) (hm : Memory.wf s.pw) (r : ByteReg) (i : Nat) (v : Word) :
    Memory.wf (s.writeWord r i v).pw := by
  unfold State.writeWord
  exact writeByte_pw_wf _ (writeByte_pw_wf _ (writeByte_pw_wf _ (writeByte_pw_wf _ hm _ _ _) _ _ _) _ _ _) _ _ _

/-- A byte write inside the register lists no `PW` byte outside the window. -/
theorem writeByte_pw_inWindow (s : State) (hm : ∀ c ∈ s.pw, c.1 < Config.pwMax) (r : ByteReg) (i : Nat)
    (hi : i < r.size) (b : Byte) : ∀ c ∈ (s.writeByte r i b).pw, c.1 < Config.pwMax := by
  cases r <;> simp only [State.writeByte] <;> try exact hm
  intro c hc
  rcases Memory.mem_write _ _ _ _ hc with hc | ⟨rfl, -⟩
  · exact hm c hc
  · exact hi

end Sys2Proof.Machine
end

