-- ==== Sys2Proof/Laws/State.lean ====
section
/-! SUPPORT. One lemma per field per shared update of Machine/Ops.lean, each true by definition. -/

namespace Sys2Proof.Machine

/-! ## `State.respond` -/

@[simp] theorem State.respond_pw (s : State) (r : Response) :
    (s.respond r).pw = s.pw := rfl
@[simp] theorem State.respond_pwLen (s : State) (r : Response) :
    (s.respond r).pwLen = s.pwLen := rfl
@[simp] theorem State.respond_kfLen (s : State) (r : Response) :
    (s.respond r).kfLen = s.kfLen := rfl
@[simp] theorem State.respond_kfh (s : State) (r : Response) :
    (s.respond r).kfh = s.kfh := rfl
@[simp] theorem State.respond_mseed (s : State) (r : Response) :
    (s.respond r).mseed = s.mseed := rfl
@[simp] theorem State.respond_tseed (s : State) (r : Response) :
    (s.respond r).tseed = s.tseed := rfl
@[simp] theorem State.respond_rounds (s : State) (r : Response) :
    (s.respond r).rounds = s.rounds := rfl
@[simp] theorem State.respond_ckey (s : State) (r : Response) :
    (s.respond r).ckey = s.ckey := rfl
@[simp] theorem State.respond_iv (s : State) (r : Response) :
    (s.respond r).iv = s.iv := rfl
@[simp] theorem State.respond_cid (s : State) (r : Response) :
    (s.respond r).cid = s.cid := rfl
@[simp] theorem State.respond_busy (s : State) (r : Response) :
    (s.respond r).busy = s.busy := rfl
@[simp] theorem State.respond_done (s : State) (r : Response) :
    (s.respond r).done = s.done := rfl
@[simp] theorem State.respond_err (s : State) (r : Response) :
    (s.respond r).err = s.err := rfl
@[simp] theorem State.respond_errcode (s : State) (r : Response) :
    (s.respond r).errcode = s.errcode := rfl
@[simp] theorem State.respond_doneIe (s : State) (r : Response) :
    (s.respond r).doneIe = s.doneIe := rfl
@[simp] theorem State.respond_errIe (s : State) (r : Response) :
    (s.respond r).errIe = s.errIe := rfl
@[simp] theorem State.respond_sess (s : State) (r : Response) :
    (s.respond r).sess = s.sess := rfl
@[simp] theorem State.respond_op (s : State) (r : Response) :
    (s.respond r).op = s.op := rfl
@[simp] theorem State.respond_phase (s : State) (r : Response) :
    (s.respond r).phase = s.phase := rfl
@[simp] theorem State.respond_cKs (s : State) (r : Response) :
    (s.respond r).cKs = s.cKs := rfl
@[simp] theorem State.respond_cDir (s : State) (r : Response) :
    (s.respond r).cDir = s.cDir := rfl
@[simp] theorem State.respond_cClr (s : State) (r : Response) :
    (s.respond r).cClr = s.cClr := rfl
@[simp] theorem State.respond_baseBuf (s : State) (r : Response) :
    (s.respond r).baseBuf = s.baseBuf := rfl
@[simp] theorem State.respond_laneCnt (s : State) (r : Response) :
    (s.respond r).laneCnt = s.laneCnt := rfl
@[simp] theorem State.respond_keyTmp (s : State) (r : Response) :
    (s.respond r).keyTmp = s.keyTmp := rfl
@[simp] theorem State.respond_kfAll (s : State) (r : Response) :
    (s.respond r).kfAll = s.kfAll := rfl
@[simp] theorem State.respond_kfEnd (s : State) (r : Response) :
    (s.respond r).kfEnd = s.kfEnd := rfl
@[simp] theorem State.respond_bus (s : State) (r : Response) :
    (s.respond r).bus = r := rfl
@[simp] theorem State.respond_agenda (s : State) (r : Response) :
    (s.respond r).agenda = s.agenda := rfl

/-! ## `State.closeSession` -/

@[simp] theorem State.closeSession_pw (s : State) :
    s.closeSession.pw = s.pw := rfl
@[simp] theorem State.closeSession_pwLen (s : State) :
    s.closeSession.pwLen = s.pwLen := rfl
@[simp] theorem State.closeSession_kfLen (s : State) :
    s.closeSession.kfLen = s.kfLen := rfl
@[simp] theorem State.closeSession_kfh (s : State) :
    s.closeSession.kfh = s.kfh := rfl
@[simp] theorem State.closeSession_mseed (s : State) :
    s.closeSession.mseed = s.mseed := rfl
@[simp] theorem State.closeSession_tseed (s : State) :
    s.closeSession.tseed = s.tseed := rfl
@[simp] theorem State.closeSession_rounds (s : State) :
    s.closeSession.rounds = s.rounds := rfl
@[simp] theorem State.closeSession_ckey (s : State) :
    s.closeSession.ckey = s.ckey := rfl
@[simp] theorem State.closeSession_iv (s : State) :
    s.closeSession.iv = s.iv := rfl
@[simp] theorem State.closeSession_cid (s : State) :
    s.closeSession.cid = s.cid := rfl
@[simp] theorem State.closeSession_busy (s : State) :
    s.closeSession.busy = s.busy := rfl
@[simp] theorem State.closeSession_done (s : State) :
    s.closeSession.done = s.done := rfl
@[simp] theorem State.closeSession_err (s : State) :
    s.closeSession.err = s.err := rfl
@[simp] theorem State.closeSession_errcode (s : State) :
    s.closeSession.errcode = s.errcode := rfl
@[simp] theorem State.closeSession_doneIe (s : State) :
    s.closeSession.doneIe = s.doneIe := rfl
@[simp] theorem State.closeSession_errIe (s : State) :
    s.closeSession.errIe = s.errIe := rfl
@[simp] theorem State.closeSession_sess (s : State) :
    s.closeSession.sess = Session.closed := rfl
@[simp] theorem State.closeSession_op (s : State) :
    s.closeSession.op = s.op := rfl
@[simp] theorem State.closeSession_phase (s : State) :
    s.closeSession.phase = s.phase := rfl
@[simp] theorem State.closeSession_cKs (s : State) :
    s.closeSession.cKs = s.cKs := rfl
@[simp] theorem State.closeSession_cDir (s : State) :
    s.closeSession.cDir = s.cDir := rfl
@[simp] theorem State.closeSession_cClr (s : State) :
    s.closeSession.cClr = s.cClr := rfl
@[simp] theorem State.closeSession_baseBuf (s : State) :
    s.closeSession.baseBuf = s.baseBuf := rfl
@[simp] theorem State.closeSession_laneCnt (s : State) :
    s.closeSession.laneCnt = s.laneCnt := rfl
@[simp] theorem State.closeSession_keyTmp (s : State) :
    s.closeSession.keyTmp = s.keyTmp := rfl
@[simp] theorem State.closeSession_kfAll (s : State) :
    s.closeSession.kfAll = s.kfAll := rfl
@[simp] theorem State.closeSession_kfEnd (s : State) :
    s.closeSession.kfEnd = s.kfEnd := rfl
@[simp] theorem State.closeSession_bus (s : State) :
    s.closeSession.bus = s.bus := rfl
@[simp] theorem State.closeSession_agenda (s : State) :
    s.closeSession.agenda = s.agenda := rfl

/-! ## `State.recordError` -/

@[simp] theorem State.recordError_pw (s : State) (e : ErrorCode) (info : Byte) :
    (s.recordError e info).pw = s.pw := rfl
@[simp] theorem State.recordError_pwLen (s : State) (e : ErrorCode) (info : Byte) :
    (s.recordError e info).pwLen = s.pwLen := rfl
@[simp] theorem State.recordError_kfLen (s : State) (e : ErrorCode) (info : Byte) :
    (s.recordError e info).kfLen = s.kfLen := rfl
@[simp] theorem State.recordError_kfh (s : State) (e : ErrorCode) (info : Byte) :
    (s.recordError e info).kfh = s.kfh := rfl
@[simp] theorem State.recordError_mseed (s : State) (e : ErrorCode) (info : Byte) :
    (s.recordError e info).mseed = s.mseed := rfl
@[simp] theorem State.recordError_tseed (s : State) (e : ErrorCode) (info : Byte) :
    (s.recordError e info).tseed = s.tseed := rfl
@[simp] theorem State.recordError_rounds (s : State) (e : ErrorCode) (info : Byte) :
    (s.recordError e info).rounds = s.rounds := rfl
@[simp] theorem State.recordError_ckey (s : State) (e : ErrorCode) (info : Byte) :
    (s.recordError e info).ckey = s.ckey := rfl
@[simp] theorem State.recordError_iv (s : State) (e : ErrorCode) (info : Byte) :
    (s.recordError e info).iv = s.iv := rfl
@[simp] theorem State.recordError_cid (s : State) (e : ErrorCode) (info : Byte) :
    (s.recordError e info).cid = s.cid := rfl
@[simp] theorem State.recordError_busy (s : State) (e : ErrorCode) (info : Byte) :
    (s.recordError e info).busy = s.busy := rfl
@[simp] theorem State.recordError_done (s : State) (e : ErrorCode) (info : Byte) :
    (s.recordError e info).done = s.done := rfl
@[simp] theorem State.recordError_err (s : State) (e : ErrorCode) (info : Byte) :
    (s.recordError e info).err = true := rfl
@[simp] theorem State.recordError_errcode (s : State) (e : ErrorCode) (info : Byte) :
    (s.recordError e info).errcode = (if s.err then s.errcode else errcodeWord e info) := rfl
@[simp] theorem State.recordError_doneIe (s : State) (e : ErrorCode) (info : Byte) :
    (s.recordError e info).doneIe = s.doneIe := rfl
@[simp] theorem State.recordError_errIe (s : State) (e : ErrorCode) (info : Byte) :
    (s.recordError e info).errIe = s.errIe := rfl
@[simp] theorem State.recordError_sess (s : State) (e : ErrorCode) (info : Byte) :
    (s.recordError e info).sess = s.sess := rfl
@[simp] theorem State.recordError_op (s : State) (e : ErrorCode) (info : Byte) :
    (s.recordError e info).op = s.op := rfl
@[simp] theorem State.recordError_phase (s : State) (e : ErrorCode) (info : Byte) :
    (s.recordError e info).phase = s.phase := rfl
@[simp] theorem State.recordError_cKs (s : State) (e : ErrorCode) (info : Byte) :
    (s.recordError e info).cKs = s.cKs := rfl
@[simp] theorem State.recordError_cDir (s : State) (e : ErrorCode) (info : Byte) :
    (s.recordError e info).cDir = s.cDir := rfl
@[simp] theorem State.recordError_cClr (s : State) (e : ErrorCode) (info : Byte) :
    (s.recordError e info).cClr = s.cClr := rfl
@[simp] theorem State.recordError_baseBuf (s : State) (e : ErrorCode) (info : Byte) :
    (s.recordError e info).baseBuf = s.baseBuf := rfl
@[simp] theorem State.recordError_laneCnt (s : State) (e : ErrorCode) (info : Byte) :
    (s.recordError e info).laneCnt = s.laneCnt := rfl
@[simp] theorem State.recordError_keyTmp (s : State) (e : ErrorCode) (info : Byte) :
    (s.recordError e info).keyTmp = s.keyTmp := rfl
@[simp] theorem State.recordError_kfAll (s : State) (e : ErrorCode) (info : Byte) :
    (s.recordError e info).kfAll = s.kfAll := rfl
@[simp] theorem State.recordError_kfEnd (s : State) (e : ErrorCode) (info : Byte) :
    (s.recordError e info).kfEnd = s.kfEnd := rfl
@[simp] theorem State.recordError_bus (s : State) (e : ErrorCode) (info : Byte) :
    (s.recordError e info).bus = s.bus := rfl
@[simp] theorem State.recordError_agenda (s : State) (e : ErrorCode) (info : Byte) :
    (s.recordError e info).agenda = s.agenda := rfl

/-! ## `State.acknowledge` -/

@[simp] theorem State.acknowledge_pw (s : State) (v : Word) :
    (s.acknowledge v).pw = s.pw := rfl
@[simp] theorem State.acknowledge_pwLen (s : State) (v : Word) :
    (s.acknowledge v).pwLen = s.pwLen := rfl
@[simp] theorem State.acknowledge_kfLen (s : State) (v : Word) :
    (s.acknowledge v).kfLen = s.kfLen := rfl
@[simp] theorem State.acknowledge_kfh (s : State) (v : Word) :
    (s.acknowledge v).kfh = s.kfh := rfl
@[simp] theorem State.acknowledge_mseed (s : State) (v : Word) :
    (s.acknowledge v).mseed = s.mseed := rfl
@[simp] theorem State.acknowledge_tseed (s : State) (v : Word) :
    (s.acknowledge v).tseed = s.tseed := rfl
@[simp] theorem State.acknowledge_rounds (s : State) (v : Word) :
    (s.acknowledge v).rounds = s.rounds := rfl
@[simp] theorem State.acknowledge_ckey (s : State) (v : Word) :
    (s.acknowledge v).ckey = s.ckey := rfl
@[simp] theorem State.acknowledge_iv (s : State) (v : Word) :
    (s.acknowledge v).iv = s.iv := rfl
@[simp] theorem State.acknowledge_cid (s : State) (v : Word) :
    (s.acknowledge v).cid = s.cid := rfl
@[simp] theorem State.acknowledge_busy (s : State) (v : Word) :
    (s.acknowledge v).busy = s.busy := rfl
@[simp] theorem State.acknowledge_done (s : State) (v : Word) :
    (s.acknowledge v).done = (if bit v 1 then false else s.done) := rfl
@[simp] theorem State.acknowledge_err (s : State) (v : Word) :
    (s.acknowledge v).err = (if bit v 2 then false else s.err) := rfl
@[simp] theorem State.acknowledge_errcode (s : State) (v : Word) :
    (s.acknowledge v).errcode = (if bit v 2 then 0 else s.errcode) := rfl
@[simp] theorem State.acknowledge_doneIe (s : State) (v : Word) :
    (s.acknowledge v).doneIe = s.doneIe := rfl
@[simp] theorem State.acknowledge_errIe (s : State) (v : Word) :
    (s.acknowledge v).errIe = s.errIe := rfl
@[simp] theorem State.acknowledge_sess (s : State) (v : Word) :
    (s.acknowledge v).sess = s.sess := rfl
@[simp] theorem State.acknowledge_op (s : State) (v : Word) :
    (s.acknowledge v).op = s.op := rfl
@[simp] theorem State.acknowledge_phase (s : State) (v : Word) :
    (s.acknowledge v).phase = s.phase := rfl
@[simp] theorem State.acknowledge_cKs (s : State) (v : Word) :
    (s.acknowledge v).cKs = s.cKs := rfl
@[simp] theorem State.acknowledge_cDir (s : State) (v : Word) :
    (s.acknowledge v).cDir = s.cDir := rfl
@[simp] theorem State.acknowledge_cClr (s : State) (v : Word) :
    (s.acknowledge v).cClr = s.cClr := rfl
@[simp] theorem State.acknowledge_baseBuf (s : State) (v : Word) :
    (s.acknowledge v).baseBuf = s.baseBuf := rfl
@[simp] theorem State.acknowledge_laneCnt (s : State) (v : Word) :
    (s.acknowledge v).laneCnt = s.laneCnt := rfl
@[simp] theorem State.acknowledge_keyTmp (s : State) (v : Word) :
    (s.acknowledge v).keyTmp = s.keyTmp := rfl
@[simp] theorem State.acknowledge_kfAll (s : State) (v : Word) :
    (s.acknowledge v).kfAll = s.kfAll := rfl
@[simp] theorem State.acknowledge_kfEnd (s : State) (v : Word) :
    (s.acknowledge v).kfEnd = s.kfEnd := rfl
@[simp] theorem State.acknowledge_bus (s : State) (v : Word) :
    (s.acknowledge v).bus = s.bus := rfl
@[simp] theorem State.acknowledge_agenda (s : State) (v : Word) :
    (s.acknowledge v).agenda = s.agenda := rfl

/-! ## `State.endCommand` -/

@[simp] theorem State.endCommand_pw (s : State) :
    s.endCommand.pw = s.pw := rfl
@[simp] theorem State.endCommand_pwLen (s : State) :
    s.endCommand.pwLen = s.pwLen := rfl
@[simp] theorem State.endCommand_kfLen (s : State) :
    s.endCommand.kfLen = s.kfLen := rfl
@[simp] theorem State.endCommand_kfh (s : State) :
    s.endCommand.kfh = s.kfh := rfl
@[simp] theorem State.endCommand_mseed (s : State) :
    s.endCommand.mseed = s.mseed := rfl
@[simp] theorem State.endCommand_tseed (s : State) :
    s.endCommand.tseed = s.tseed := rfl
@[simp] theorem State.endCommand_rounds (s : State) :
    s.endCommand.rounds = s.rounds := rfl
@[simp] theorem State.endCommand_ckey (s : State) :
    s.endCommand.ckey = s.ckey := rfl
@[simp] theorem State.endCommand_iv (s : State) :
    s.endCommand.iv = s.iv := rfl
@[simp] theorem State.endCommand_cid (s : State) :
    s.endCommand.cid = s.cid := rfl
@[simp] theorem State.endCommand_busy (s : State) :
    s.endCommand.busy = false := rfl
@[simp] theorem State.endCommand_done (s : State) :
    s.endCommand.done = s.done := rfl
@[simp] theorem State.endCommand_err (s : State) :
    s.endCommand.err = s.err := rfl
@[simp] theorem State.endCommand_errcode (s : State) :
    s.endCommand.errcode = s.errcode := rfl
@[simp] theorem State.endCommand_doneIe (s : State) :
    s.endCommand.doneIe = s.doneIe := rfl
@[simp] theorem State.endCommand_errIe (s : State) :
    s.endCommand.errIe = s.errIe := rfl
@[simp] theorem State.endCommand_sess (s : State) :
    s.endCommand.sess = s.sess := rfl
@[simp] theorem State.endCommand_op (s : State) :
    s.endCommand.op = .none := rfl
@[simp] theorem State.endCommand_phase (s : State) :
    s.endCommand.phase = .idle := rfl
@[simp] theorem State.endCommand_cKs (s : State) :
    s.endCommand.cKs = .derived := rfl
@[simp] theorem State.endCommand_cDir (s : State) :
    s.endCommand.cDir = .encrypt := rfl
@[simp] theorem State.endCommand_cClr (s : State) :
    s.endCommand.cClr = ⟨false, false, false⟩ := rfl
@[simp] theorem State.endCommand_baseBuf (s : State) :
    s.endCommand.baseBuf = zero32 := rfl
@[simp] theorem State.endCommand_laneCnt (s : State) :
    s.endCommand.laneCnt = Vector.replicate 2 0 := rfl
@[simp] theorem State.endCommand_keyTmp (s : State) :
    s.endCommand.keyTmp = zero32 := rfl
@[simp] theorem State.endCommand_kfAll (s : State) :
    s.endCommand.kfAll = [] := rfl
@[simp] theorem State.endCommand_kfEnd (s : State) :
    s.endCommand.kfEnd = .none := rfl
@[simp] theorem State.endCommand_bus (s : State) :
    s.endCommand.bus = s.bus := rfl
@[simp] theorem State.endCommand_agenda (s : State) :
    s.endCommand.agenda = s.agenda := rfl

/-! ## `State.succeed` -/

@[simp] theorem State.succeed_pw (s : State) :
    s.succeed.pw = s.pw := rfl
@[simp] theorem State.succeed_pwLen (s : State) :
    s.succeed.pwLen = s.pwLen := rfl
@[simp] theorem State.succeed_kfLen (s : State) :
    s.succeed.kfLen = s.kfLen := rfl
@[simp] theorem State.succeed_kfh (s : State) :
    s.succeed.kfh = s.kfh := rfl
@[simp] theorem State.succeed_mseed (s : State) :
    s.succeed.mseed = s.mseed := rfl
@[simp] theorem State.succeed_tseed (s : State) :
    s.succeed.tseed = s.tseed := rfl
@[simp] theorem State.succeed_rounds (s : State) :
    s.succeed.rounds = s.rounds := rfl
@[simp] theorem State.succeed_ckey (s : State) :
    s.succeed.ckey = s.ckey := rfl
@[simp] theorem State.succeed_iv (s : State) :
    s.succeed.iv = s.iv := rfl
@[simp] theorem State.succeed_cid (s : State) :
    s.succeed.cid = s.cid := rfl
@[simp] theorem State.succeed_busy (s : State) :
    s.succeed.busy = false := rfl
@[simp] theorem State.succeed_done (s : State) :
    s.succeed.done = true := rfl
@[simp] theorem State.succeed_err (s : State) :
    s.succeed.err = s.err := rfl
@[simp] theorem State.succeed_errcode (s : State) :
    s.succeed.errcode = s.errcode := rfl
@[simp] theorem State.succeed_doneIe (s : State) :
    s.succeed.doneIe = s.doneIe := rfl
@[simp] theorem State.succeed_errIe (s : State) :
    s.succeed.errIe = s.errIe := rfl
@[simp] theorem State.succeed_sess (s : State) :
    s.succeed.sess = s.sess := rfl
@[simp] theorem State.succeed_op (s : State) :
    s.succeed.op = .none := rfl
@[simp] theorem State.succeed_phase (s : State) :
    s.succeed.phase = .idle := rfl
@[simp] theorem State.succeed_cKs (s : State) :
    s.succeed.cKs = .derived := rfl
@[simp] theorem State.succeed_cDir (s : State) :
    s.succeed.cDir = .encrypt := rfl
@[simp] theorem State.succeed_cClr (s : State) :
    s.succeed.cClr = ⟨false, false, false⟩ := rfl
@[simp] theorem State.succeed_baseBuf (s : State) :
    s.succeed.baseBuf = zero32 := rfl
@[simp] theorem State.succeed_laneCnt (s : State) :
    s.succeed.laneCnt = Vector.replicate 2 0 := rfl
@[simp] theorem State.succeed_keyTmp (s : State) :
    s.succeed.keyTmp = zero32 := rfl
@[simp] theorem State.succeed_kfAll (s : State) :
    s.succeed.kfAll = [] := rfl
@[simp] theorem State.succeed_kfEnd (s : State) :
    s.succeed.kfEnd = .none := rfl
@[simp] theorem State.succeed_bus (s : State) :
    s.succeed.bus = s.bus := rfl
@[simp] theorem State.succeed_agenda (s : State) :
    s.succeed.agenda = s.agenda := rfl

/-! ## `State.fail` -/

@[simp] theorem State.fail_pw (s : State) (e : ErrorCode) (info : Byte) :
    (s.fail e info).pw = s.pw := rfl
@[simp] theorem State.fail_pwLen (s : State) (e : ErrorCode) (info : Byte) :
    (s.fail e info).pwLen = s.pwLen := rfl
@[simp] theorem State.fail_kfLen (s : State) (e : ErrorCode) (info : Byte) :
    (s.fail e info).kfLen = s.kfLen := rfl
@[simp] theorem State.fail_kfh (s : State) (e : ErrorCode) (info : Byte) :
    (s.fail e info).kfh = s.kfh := rfl
@[simp] theorem State.fail_mseed (s : State) (e : ErrorCode) (info : Byte) :
    (s.fail e info).mseed = s.mseed := rfl
@[simp] theorem State.fail_tseed (s : State) (e : ErrorCode) (info : Byte) :
    (s.fail e info).tseed = s.tseed := rfl
@[simp] theorem State.fail_rounds (s : State) (e : ErrorCode) (info : Byte) :
    (s.fail e info).rounds = s.rounds := rfl
@[simp] theorem State.fail_ckey (s : State) (e : ErrorCode) (info : Byte) :
    (s.fail e info).ckey = s.ckey := rfl
@[simp] theorem State.fail_iv (s : State) (e : ErrorCode) (info : Byte) :
    (s.fail e info).iv = s.iv := rfl
@[simp] theorem State.fail_cid (s : State) (e : ErrorCode) (info : Byte) :
    (s.fail e info).cid = s.cid := rfl
@[simp] theorem State.fail_busy (s : State) (e : ErrorCode) (info : Byte) :
    (s.fail e info).busy = false := rfl
@[simp] theorem State.fail_done (s : State) (e : ErrorCode) (info : Byte) :
    (s.fail e info).done = false := rfl
@[simp] theorem State.fail_err (s : State) (e : ErrorCode) (info : Byte) :
    (s.fail e info).err = true := rfl
@[simp] theorem State.fail_errcode (s : State) (e : ErrorCode) (info : Byte) :
    (s.fail e info).errcode = (if s.err then s.errcode else errcodeWord e info) := rfl
@[simp] theorem State.fail_doneIe (s : State) (e : ErrorCode) (info : Byte) :
    (s.fail e info).doneIe = s.doneIe := rfl
@[simp] theorem State.fail_errIe (s : State) (e : ErrorCode) (info : Byte) :
    (s.fail e info).errIe = s.errIe := rfl
@[simp] theorem State.fail_sess (s : State) (e : ErrorCode) (info : Byte) :
    (s.fail e info).sess = s.sess := rfl
@[simp] theorem State.fail_op (s : State) (e : ErrorCode) (info : Byte) :
    (s.fail e info).op = .none := rfl
@[simp] theorem State.fail_phase (s : State) (e : ErrorCode) (info : Byte) :
    (s.fail e info).phase = .idle := rfl
@[simp] theorem State.fail_cKs (s : State) (e : ErrorCode) (info : Byte) :
    (s.fail e info).cKs = .derived := rfl
@[simp] theorem State.fail_cDir (s : State) (e : ErrorCode) (info : Byte) :
    (s.fail e info).cDir = .encrypt := rfl
@[simp] theorem State.fail_cClr (s : State) (e : ErrorCode) (info : Byte) :
    (s.fail e info).cClr = ⟨false, false, false⟩ := rfl
@[simp] theorem State.fail_baseBuf (s : State) (e : ErrorCode) (info : Byte) :
    (s.fail e info).baseBuf = zero32 := rfl
@[simp] theorem State.fail_laneCnt (s : State) (e : ErrorCode) (info : Byte) :
    (s.fail e info).laneCnt = Vector.replicate 2 0 := rfl
@[simp] theorem State.fail_keyTmp (s : State) (e : ErrorCode) (info : Byte) :
    (s.fail e info).keyTmp = zero32 := rfl
@[simp] theorem State.fail_kfAll (s : State) (e : ErrorCode) (info : Byte) :
    (s.fail e info).kfAll = [] := rfl
@[simp] theorem State.fail_kfEnd (s : State) (e : ErrorCode) (info : Byte) :
    (s.fail e info).kfEnd = .none := rfl
@[simp] theorem State.fail_bus (s : State) (e : ErrorCode) (info : Byte) :
    (s.fail e info).bus = s.bus := rfl
@[simp] theorem State.fail_agenda (s : State) (e : ErrorCode) (info : Byte) :
    (s.fail e info).agenda = s.agenda := rfl

/-! ## `State.accepted`, `State.reject` -/

@[simp] theorem State.accepted_pw (s : State) :
    s.accepted.pw = s.pw := rfl
@[simp] theorem State.accepted_pwLen (s : State) :
    s.accepted.pwLen = s.pwLen := rfl
@[simp] theorem State.accepted_kfLen (s : State) :
    s.accepted.kfLen = s.kfLen := rfl
@[simp] theorem State.accepted_kfh (s : State) :
    s.accepted.kfh = s.kfh := rfl
@[simp] theorem State.accepted_mseed (s : State) :
    s.accepted.mseed = s.mseed := rfl
@[simp] theorem State.accepted_tseed (s : State) :
    s.accepted.tseed = s.tseed := rfl
@[simp] theorem State.accepted_rounds (s : State) :
    s.accepted.rounds = s.rounds := rfl
@[simp] theorem State.accepted_ckey (s : State) :
    s.accepted.ckey = s.ckey := rfl
@[simp] theorem State.accepted_iv (s : State) :
    s.accepted.iv = s.iv := rfl
@[simp] theorem State.accepted_cid (s : State) :
    s.accepted.cid = s.cid := rfl
@[simp] theorem State.accepted_busy (s : State) :
    s.accepted.busy = s.busy := rfl
@[simp] theorem State.accepted_done (s : State) :
    s.accepted.done = false := rfl
@[simp] theorem State.accepted_err (s : State) :
    s.accepted.err = s.err := rfl
@[simp] theorem State.accepted_errcode (s : State) :
    s.accepted.errcode = s.errcode := rfl
@[simp] theorem State.accepted_doneIe (s : State) :
    s.accepted.doneIe = s.doneIe := rfl
@[simp] theorem State.accepted_errIe (s : State) :
    s.accepted.errIe = s.errIe := rfl
@[simp] theorem State.accepted_sess (s : State) :
    s.accepted.sess = s.sess := rfl
@[simp] theorem State.accepted_op (s : State) :
    s.accepted.op = s.op := rfl
@[simp] theorem State.accepted_phase (s : State) :
    s.accepted.phase = s.phase := rfl
@[simp] theorem State.accepted_cKs (s : State) :
    s.accepted.cKs = s.cKs := rfl
@[simp] theorem State.accepted_cDir (s : State) :
    s.accepted.cDir = s.cDir := rfl
@[simp] theorem State.accepted_cClr (s : State) :
    s.accepted.cClr = s.cClr := rfl
@[simp] theorem State.accepted_baseBuf (s : State) :
    s.accepted.baseBuf = s.baseBuf := rfl
@[simp] theorem State.accepted_laneCnt (s : State) :
    s.accepted.laneCnt = s.laneCnt := rfl
@[simp] theorem State.accepted_keyTmp (s : State) :
    s.accepted.keyTmp = s.keyTmp := rfl
@[simp] theorem State.accepted_kfAll (s : State) :
    s.accepted.kfAll = s.kfAll := rfl
@[simp] theorem State.accepted_kfEnd (s : State) :
    s.accepted.kfEnd = s.kfEnd := rfl
@[simp] theorem State.accepted_bus (s : State) :
    s.accepted.bus = .ok := rfl
@[simp] theorem State.accepted_agenda (s : State) :
    s.accepted.agenda = s.agenda := rfl
@[simp] theorem State.reject_pw (s : State) (e : ErrorCode) (info : Byte) :
    (s.reject e info).pw = s.pw := rfl
@[simp] theorem State.reject_pwLen (s : State) (e : ErrorCode) (info : Byte) :
    (s.reject e info).pwLen = s.pwLen := rfl
@[simp] theorem State.reject_kfLen (s : State) (e : ErrorCode) (info : Byte) :
    (s.reject e info).kfLen = s.kfLen := rfl
@[simp] theorem State.reject_kfh (s : State) (e : ErrorCode) (info : Byte) :
    (s.reject e info).kfh = s.kfh := rfl
@[simp] theorem State.reject_mseed (s : State) (e : ErrorCode) (info : Byte) :
    (s.reject e info).mseed = s.mseed := rfl
@[simp] theorem State.reject_tseed (s : State) (e : ErrorCode) (info : Byte) :
    (s.reject e info).tseed = s.tseed := rfl
@[simp] theorem State.reject_rounds (s : State) (e : ErrorCode) (info : Byte) :
    (s.reject e info).rounds = s.rounds := rfl
@[simp] theorem State.reject_ckey (s : State) (e : ErrorCode) (info : Byte) :
    (s.reject e info).ckey = s.ckey := rfl
@[simp] theorem State.reject_iv (s : State) (e : ErrorCode) (info : Byte) :
    (s.reject e info).iv = s.iv := rfl
@[simp] theorem State.reject_cid (s : State) (e : ErrorCode) (info : Byte) :
    (s.reject e info).cid = s.cid := rfl
@[simp] theorem State.reject_busy (s : State) (e : ErrorCode) (info : Byte) :
    (s.reject e info).busy = s.busy := rfl
@[simp] theorem State.reject_done (s : State) (e : ErrorCode) (info : Byte) :
    (s.reject e info).done = s.done := rfl
@[simp] theorem State.reject_err (s : State) (e : ErrorCode) (info : Byte) :
    (s.reject e info).err = true := rfl
@[simp] theorem State.reject_errcode (s : State) (e : ErrorCode) (info : Byte) :
    (s.reject e info).errcode = (if s.err then s.errcode else errcodeWord e info) := rfl
@[simp] theorem State.reject_doneIe (s : State) (e : ErrorCode) (info : Byte) :
    (s.reject e info).doneIe = s.doneIe := rfl
@[simp] theorem State.reject_errIe (s : State) (e : ErrorCode) (info : Byte) :
    (s.reject e info).errIe = s.errIe := rfl
@[simp] theorem State.reject_sess (s : State) (e : ErrorCode) (info : Byte) :
    (s.reject e info).sess = s.sess := rfl
@[simp] theorem State.reject_op (s : State) (e : ErrorCode) (info : Byte) :
    (s.reject e info).op = s.op := rfl
@[simp] theorem State.reject_phase (s : State) (e : ErrorCode) (info : Byte) :
    (s.reject e info).phase = s.phase := rfl
@[simp] theorem State.reject_cKs (s : State) (e : ErrorCode) (info : Byte) :
    (s.reject e info).cKs = s.cKs := rfl
@[simp] theorem State.reject_cDir (s : State) (e : ErrorCode) (info : Byte) :
    (s.reject e info).cDir = s.cDir := rfl
@[simp] theorem State.reject_cClr (s : State) (e : ErrorCode) (info : Byte) :
    (s.reject e info).cClr = s.cClr := rfl
@[simp] theorem State.reject_baseBuf (s : State) (e : ErrorCode) (info : Byte) :
    (s.reject e info).baseBuf = s.baseBuf := rfl
@[simp] theorem State.reject_laneCnt (s : State) (e : ErrorCode) (info : Byte) :
    (s.reject e info).laneCnt = s.laneCnt := rfl
@[simp] theorem State.reject_keyTmp (s : State) (e : ErrorCode) (info : Byte) :
    (s.reject e info).keyTmp = s.keyTmp := rfl
@[simp] theorem State.reject_kfAll (s : State) (e : ErrorCode) (info : Byte) :
    (s.reject e info).kfAll = s.kfAll := rfl
@[simp] theorem State.reject_kfEnd (s : State) (e : ErrorCode) (info : Byte) :
    (s.reject e info).kfEnd = s.kfEnd := rfl
@[simp] theorem State.reject_bus (s : State) (e : ErrorCode) (info : Byte) :
    (s.reject e info).bus = s.bus := rfl
@[simp] theorem State.reject_agenda (s : State) (e : ErrorCode) (info : Byte) :
    (s.reject e info).agenda = s.agenda := rfl

/-! ## `State.issue` -/

@[simp] theorem State.issue_pw (s : State) (op : Op) (phase : Phase) (ks : KeySource) (dir : Direction) (clr : ClearMask) :
    (s.issue op phase ks dir clr).pw = s.pw := rfl
@[simp] theorem State.issue_pwLen (s : State) (op : Op) (phase : Phase) (ks : KeySource) (dir : Direction) (clr : ClearMask) :
    (s.issue op phase ks dir clr).pwLen = s.pwLen := rfl
@[simp] theorem State.issue_kfLen (s : State) (op : Op) (phase : Phase) (ks : KeySource) (dir : Direction) (clr : ClearMask) :
    (s.issue op phase ks dir clr).kfLen = s.kfLen := rfl
@[simp] theorem State.issue_kfh (s : State) (op : Op) (phase : Phase) (ks : KeySource) (dir : Direction) (clr : ClearMask) :
    (s.issue op phase ks dir clr).kfh = s.kfh := rfl
@[simp] theorem State.issue_mseed (s : State) (op : Op) (phase : Phase) (ks : KeySource) (dir : Direction) (clr : ClearMask) :
    (s.issue op phase ks dir clr).mseed = s.mseed := rfl
@[simp] theorem State.issue_tseed (s : State) (op : Op) (phase : Phase) (ks : KeySource) (dir : Direction) (clr : ClearMask) :
    (s.issue op phase ks dir clr).tseed = s.tseed := rfl
@[simp] theorem State.issue_rounds (s : State) (op : Op) (phase : Phase) (ks : KeySource) (dir : Direction) (clr : ClearMask) :
    (s.issue op phase ks dir clr).rounds = s.rounds := rfl
@[simp] theorem State.issue_ckey (s : State) (op : Op) (phase : Phase) (ks : KeySource) (dir : Direction) (clr : ClearMask) :
    (s.issue op phase ks dir clr).ckey = s.ckey := rfl
@[simp] theorem State.issue_iv (s : State) (op : Op) (phase : Phase) (ks : KeySource) (dir : Direction) (clr : ClearMask) :
    (s.issue op phase ks dir clr).iv = s.iv := rfl
@[simp] theorem State.issue_cid (s : State) (op : Op) (phase : Phase) (ks : KeySource) (dir : Direction) (clr : ClearMask) :
    (s.issue op phase ks dir clr).cid = s.cid := rfl
@[simp] theorem State.issue_busy (s : State) (op : Op) (phase : Phase) (ks : KeySource) (dir : Direction) (clr : ClearMask) :
    (s.issue op phase ks dir clr).busy = true := rfl
@[simp] theorem State.issue_done (s : State) (op : Op) (phase : Phase) (ks : KeySource) (dir : Direction) (clr : ClearMask) :
    (s.issue op phase ks dir clr).done = s.done := rfl
@[simp] theorem State.issue_err (s : State) (op : Op) (phase : Phase) (ks : KeySource) (dir : Direction) (clr : ClearMask) :
    (s.issue op phase ks dir clr).err = s.err := rfl
@[simp] theorem State.issue_errcode (s : State) (op : Op) (phase : Phase) (ks : KeySource) (dir : Direction) (clr : ClearMask) :
    (s.issue op phase ks dir clr).errcode = s.errcode := rfl
@[simp] theorem State.issue_doneIe (s : State) (op : Op) (phase : Phase) (ks : KeySource) (dir : Direction) (clr : ClearMask) :
    (s.issue op phase ks dir clr).doneIe = s.doneIe := rfl
@[simp] theorem State.issue_errIe (s : State) (op : Op) (phase : Phase) (ks : KeySource) (dir : Direction) (clr : ClearMask) :
    (s.issue op phase ks dir clr).errIe = s.errIe := rfl
@[simp] theorem State.issue_sess (s : State) (op : Op) (phase : Phase) (ks : KeySource) (dir : Direction) (clr : ClearMask) :
    (s.issue op phase ks dir clr).sess = s.sess := rfl
@[simp] theorem State.issue_op (s : State) (op : Op) (phase : Phase) (ks : KeySource) (dir : Direction) (clr : ClearMask) :
    (s.issue op phase ks dir clr).op = op := rfl
@[simp] theorem State.issue_phase (s : State) (op : Op) (phase : Phase) (ks : KeySource) (dir : Direction) (clr : ClearMask) :
    (s.issue op phase ks dir clr).phase = phase := rfl
@[simp] theorem State.issue_cKs (s : State) (op : Op) (phase : Phase) (ks : KeySource) (dir : Direction) (clr : ClearMask) :
    (s.issue op phase ks dir clr).cKs = ks := rfl
@[simp] theorem State.issue_cDir (s : State) (op : Op) (phase : Phase) (ks : KeySource) (dir : Direction) (clr : ClearMask) :
    (s.issue op phase ks dir clr).cDir = dir := rfl
@[simp] theorem State.issue_cClr (s : State) (op : Op) (phase : Phase) (ks : KeySource) (dir : Direction) (clr : ClearMask) :
    (s.issue op phase ks dir clr).cClr = clr := rfl
@[simp] theorem State.issue_baseBuf (s : State) (op : Op) (phase : Phase) (ks : KeySource) (dir : Direction) (clr : ClearMask) :
    (s.issue op phase ks dir clr).baseBuf = s.baseBuf := rfl
@[simp] theorem State.issue_laneCnt (s : State) (op : Op) (phase : Phase) (ks : KeySource) (dir : Direction) (clr : ClearMask) :
    (s.issue op phase ks dir clr).laneCnt = s.laneCnt := rfl
@[simp] theorem State.issue_keyTmp (s : State) (op : Op) (phase : Phase) (ks : KeySource) (dir : Direction) (clr : ClearMask) :
    (s.issue op phase ks dir clr).keyTmp = s.keyTmp := rfl
@[simp] theorem State.issue_kfAll (s : State) (op : Op) (phase : Phase) (ks : KeySource) (dir : Direction) (clr : ClearMask) :
    (s.issue op phase ks dir clr).kfAll = s.kfAll := rfl
@[simp] theorem State.issue_kfEnd (s : State) (op : Op) (phase : Phase) (ks : KeySource) (dir : Direction) (clr : ClearMask) :
    (s.issue op phase ks dir clr).kfEnd = s.kfEnd := rfl
@[simp] theorem State.issue_bus (s : State) (op : Op) (phase : Phase) (ks : KeySource) (dir : Direction) (clr : ClearMask) :
    (s.issue op phase ks dir clr).bus = s.bus := rfl
@[simp] theorem State.issue_agenda (s : State) (op : Op) (phase : Phase) (ks : KeySource) (dir : Direction) (clr : ClearMask) :
    (s.issue op phase ks dir clr).agenda = s.agenda := rfl

/-! ## `State.writeByte`, `State.writeWord`: the fields that are no byte-array register -/

@[simp] theorem State.writeByte_pwLen (s : State) (r : ByteReg) (i : Nat) (b : Byte) :
    (s.writeByte r i b).pwLen = s.pwLen := by cases r <;> rfl
@[simp] theorem State.writeByte_kfLen (s : State) (r : ByteReg) (i : Nat) (b : Byte) :
    (s.writeByte r i b).kfLen = s.kfLen := by cases r <;> rfl
@[simp] theorem State.writeByte_rounds (s : State) (r : ByteReg) (i : Nat) (b : Byte) :
    (s.writeByte r i b).rounds = s.rounds := by cases r <;> rfl
@[simp] theorem State.writeByte_cid (s : State) (r : ByteReg) (i : Nat) (b : Byte) :
    (s.writeByte r i b).cid = s.cid := by cases r <;> rfl
@[simp] theorem State.writeByte_busy (s : State) (r : ByteReg) (i : Nat) (b : Byte) :
    (s.writeByte r i b).busy = s.busy := by cases r <;> rfl
@[simp] theorem State.writeByte_done (s : State) (r : ByteReg) (i : Nat) (b : Byte) :
    (s.writeByte r i b).done = s.done := by cases r <;> rfl
@[simp] theorem State.writeByte_err (s : State) (r : ByteReg) (i : Nat) (b : Byte) :
    (s.writeByte r i b).err = s.err := by cases r <;> rfl
@[simp] theorem State.writeByte_errcode (s : State) (r : ByteReg) (i : Nat) (b : Byte) :
    (s.writeByte r i b).errcode = s.errcode := by cases r <;> rfl
@[simp] theorem State.writeByte_doneIe (s : State) (r : ByteReg) (i : Nat) (b : Byte) :
    (s.writeByte r i b).doneIe = s.doneIe := by cases r <;> rfl
@[simp] theorem State.writeByte_errIe (s : State) (r : ByteReg) (i : Nat) (b : Byte) :
    (s.writeByte r i b).errIe = s.errIe := by cases r <;> rfl
@[simp] theorem State.writeByte_sess (s : State) (r : ByteReg) (i : Nat) (b : Byte) :
    (s.writeByte r i b).sess = s.sess := by cases r <;> rfl
@[simp] theorem State.writeByte_op (s : State) (r : ByteReg) (i : Nat) (b : Byte) :
    (s.writeByte r i b).op = s.op := by cases r <;> rfl
@[simp] theorem State.writeByte_phase (s : State) (r : ByteReg) (i : Nat) (b : Byte) :
    (s.writeByte r i b).phase = s.phase := by cases r <;> rfl
@[simp] theorem State.writeByte_cKs (s : State) (r : ByteReg) (i : Nat) (b : Byte) :
    (s.writeByte r i b).cKs = s.cKs := by cases r <;> rfl
@[simp] theorem State.writeByte_cDir (s : State) (r : ByteReg) (i : Nat) (b : Byte) :
    (s.writeByte r i b).cDir = s.cDir := by cases r <;> rfl
@[simp] theorem State.writeByte_cClr (s : State) (r : ByteReg) (i : Nat) (b : Byte) :
    (s.writeByte r i b).cClr = s.cClr := by cases r <;> rfl
@[simp] theorem State.writeByte_baseBuf (s : State) (r : ByteReg) (i : Nat) (b : Byte) :
    (s.writeByte r i b).baseBuf = s.baseBuf := by cases r <;> rfl
@[simp] theorem State.writeByte_laneCnt (s : State) (r : ByteReg) (i : Nat) (b : Byte) :
    (s.writeByte r i b).laneCnt = s.laneCnt := by cases r <;> rfl
@[simp] theorem State.writeByte_keyTmp (s : State) (r : ByteReg) (i : Nat) (b : Byte) :
    (s.writeByte r i b).keyTmp = s.keyTmp := by cases r <;> rfl
@[simp] theorem State.writeByte_kfAll (s : State) (r : ByteReg) (i : Nat) (b : Byte) :
    (s.writeByte r i b).kfAll = s.kfAll := by cases r <;> rfl
@[simp] theorem State.writeByte_kfEnd (s : State) (r : ByteReg) (i : Nat) (b : Byte) :
    (s.writeByte r i b).kfEnd = s.kfEnd := by cases r <;> rfl
@[simp] theorem State.writeByte_bus (s : State) (r : ByteReg) (i : Nat) (b : Byte) :
    (s.writeByte r i b).bus = s.bus := by cases r <;> rfl
@[simp] theorem State.writeByte_agenda (s : State) (r : ByteReg) (i : Nat) (b : Byte) :
    (s.writeByte r i b).agenda = s.agenda := by cases r <;> rfl

@[simp] theorem State.writeWord_pwLen (s : State) (r : ByteReg) (i : Nat) (v : Word) :
    (s.writeWord r i v).pwLen = s.pwLen := by simp [State.writeWord]
@[simp] theorem State.writeWord_kfLen (s : State) (r : ByteReg) (i : Nat) (v : Word) :
    (s.writeWord r i v).kfLen = s.kfLen := by simp [State.writeWord]
@[simp] theorem State.writeWord_rounds (s : State) (r : ByteReg) (i : Nat) (v : Word) :
    (s.writeWord r i v).rounds = s.rounds := by simp [State.writeWord]
@[simp] theorem State.writeWord_cid (s : State) (r : ByteReg) (i : Nat) (v : Word) :
    (s.writeWord r i v).cid = s.cid := by simp [State.writeWord]
@[simp] theorem State.writeWord_busy (s : State) (r : ByteReg) (i : Nat) (v : Word) :
    (s.writeWord r i v).busy = s.busy := by simp [State.writeWord]
@[simp] theorem State.writeWord_done (s : State) (r : ByteReg) (i : Nat) (v : Word) :
    (s.writeWord r i v).done = s.done := by simp [State.writeWord]
@[simp] theorem State.writeWord_err (s : State) (r : ByteReg) (i : Nat) (v : Word) :
    (s.writeWord r i v).err = s.err := by simp [State.writeWord]
@[simp] theorem State.writeWord_errcode (s : State) (r : ByteReg) (i : Nat) (v : Word) :
    (s.writeWord r i v).errcode = s.errcode := by simp [State.writeWord]
@[simp] theorem State.writeWord_doneIe (s : State) (r : ByteReg) (i : Nat) (v : Word) :
    (s.writeWord r i v).doneIe = s.doneIe := by simp [State.writeWord]
@[simp] theorem State.writeWord_errIe (s : State) (r : ByteReg) (i : Nat) (v : Word) :
    (s.writeWord r i v).errIe = s.errIe := by simp [State.writeWord]
@[simp] theorem State.writeWord_sess (s : State) (r : ByteReg) (i : Nat) (v : Word) :
    (s.writeWord r i v).sess = s.sess := by simp [State.writeWord]
@[simp] theorem State.writeWord_op (s : State) (r : ByteReg) (i : Nat) (v : Word) :
    (s.writeWord r i v).op = s.op := by simp [State.writeWord]
@[simp] theorem State.writeWord_phase (s : State) (r : ByteReg) (i : Nat) (v : Word) :
    (s.writeWord r i v).phase = s.phase := by simp [State.writeWord]
@[simp] theorem State.writeWord_cKs (s : State) (r : ByteReg) (i : Nat) (v : Word) :
    (s.writeWord r i v).cKs = s.cKs := by simp [State.writeWord]
@[simp] theorem State.writeWord_cDir (s : State) (r : ByteReg) (i : Nat) (v : Word) :
    (s.writeWord r i v).cDir = s.cDir := by simp [State.writeWord]
@[simp] theorem State.writeWord_cClr (s : State) (r : ByteReg) (i : Nat) (v : Word) :
    (s.writeWord r i v).cClr = s.cClr := by simp [State.writeWord]
@[simp] theorem State.writeWord_baseBuf (s : State) (r : ByteReg) (i : Nat) (v : Word) :
    (s.writeWord r i v).baseBuf = s.baseBuf := by simp [State.writeWord]
@[simp] theorem State.writeWord_laneCnt (s : State) (r : ByteReg) (i : Nat) (v : Word) :
    (s.writeWord r i v).laneCnt = s.laneCnt := by simp [State.writeWord]
@[simp] theorem State.writeWord_keyTmp (s : State) (r : ByteReg) (i : Nat) (v : Word) :
    (s.writeWord r i v).keyTmp = s.keyTmp := by simp [State.writeWord]
@[simp] theorem State.writeWord_kfAll (s : State) (r : ByteReg) (i : Nat) (v : Word) :
    (s.writeWord r i v).kfAll = s.kfAll := by simp [State.writeWord]
@[simp] theorem State.writeWord_kfEnd (s : State) (r : ByteReg) (i : Nat) (v : Word) :
    (s.writeWord r i v).kfEnd = s.kfEnd := by simp [State.writeWord]
@[simp] theorem State.writeWord_bus (s : State) (r : ByteReg) (i : Nat) (v : Word) :
    (s.writeWord r i v).bus = s.bus := by simp [State.writeWord]
@[simp] theorem State.writeWord_agenda (s : State) (r : ByteReg) (i : Nat) (v : Word) :
    (s.writeWord r i v).agenda = s.agenda := by simp [State.writeWord]

end Sys2Proof.Machine
end

