-- ==== Sys2Proof/Laws/Step.lean ====
section
/-! SUPPORT. What one step can do, said once: every next state of an action is one of the effects below. -/

namespace Sys2Proof.Machine

/-- Everything an action can do to a state. -/
inductive Effect (s : State) : Action → State → Prop
  /-- A host access that changes nothing but the bus response. -/
  | responded (a : Access) (r : Response) : Effect s (.host a) (s.respond r)
  /-- An illegal command word, or bad lengths, at an idle block (R227). -/
  | rejected (a : Access) (e : ErrorCode) (info : Byte) (hb : s.busy = false) :
      Effect s (.host a) (s.accepted.reject e info)
  | derive (a : Access) (hb : s.busy = false) (hl : s.lengthsLegal = true) :
      Effect s (.host a) (s.accepted.issue .derive .base .derived .encrypt ⟨false, false, false⟩)
  | kfread (a : Access) (hb : s.busy = false) :
      Effect s (.host a)
        { s.accepted.issue .kfread .kfStream .derived .encrypt ⟨false, false, false⟩ with kfAll := [], kfEnd := .none }
  | openSession (a : Access) (ks : KeySource) (dir : Direction) (hb : s.busy = false)
      (hl : ks = .derived → s.lengthsLegal = true) : Effect s (.host a) (s.accepted.openIssue ks dir)
  | clear (a : Access) (km ckey sess : Bool) (hb : s.busy = false) :
      Effect s (.host a) (s.accepted.issue .clear .clear .derived .encrypt ⟨km, ckey, sess⟩)
  | pushed (a : Access) (b : Byte) (ho : s.op = .kfread) (hp : s.phase = .kfStream) :
      Effect s (.host a) { s with bus := .ok, kfAll := s.kfAll ++ [b] }
  | ended (a : Access) (e : KfEnd) (he : e ≠ .none) (ho : s.op = .kfread) (hp : s.phase = .kfStream) :
      Effect s (.host a) { s with bus := .ok, kfEnd := e, phase := .kfFinish }
  | wrote (off size : Nat) (v : Word) (r : Reg) (i : Nat) (t : State) (hb : s.busy = false)
      (ht : busTarget off size = some (r, i)) (hw : s.writeReg r i v = some t) :
      Effect s (.host (.write off size v)) (t.respond .ok)
  | sequenced (t : State) (h : s.sequencerStep = some t) : Effect s .sequencer t
  | laned (j : LaneId) (t : State) (h : s.laneStep j = some t) : Effect s (.lane j) t
  /-- The turn of an internal agent that has no enabled step (log 1). -/
  | passed (a : Action) (h : a = .sequencer ∧ s.sequencerStep = none ∨ ∃ j, a = .lane j ∧ s.laneStep j = none) :
      Effect s a s
  | codec (e : CodecError) (info : Byte) (hv : s.sess.valid = true) :
      Effect s (.codec e info) (s.recordError e.toErrorCode info)
  | reset : Effect s .reset s.resetEvent

/-- Every instruction answers a next state, in every state. -/
theorem exec_next (i : Instr) (s : State) : ∃ t, exec i s = .next t := by
  cases i <;>
    simp only [exec, execDerive, execKfread, execOpenSession, execClear, execPush, execEos, execSrcerr,
      State.commandWrite, State.eventWrite] <;>
    split <;> exact ⟨_, rfl⟩

/-- What the write of an instruction's word can do. -/
theorem exec_effect {i : Instr} {s t : State} (a : Access) (h : exec i s = .next t) : Effect s (.host a) t := by
  cases i <;>
    simp only [exec, execDerive, execKfread, execOpenSession, execClear, execPush, execEos, execSrcerr,
      State.commandWrite, State.eventWrite] at h <;>
    split at h <;> obtain rfl := Host.Outcome.next.inj h
  case derive.isTrue => exact .responded a _
  case derive.isFalse hb =>
    have hb : s.busy = false := by simpa using hb
    split
    · rename_i hl; exact .derive a hb hl
    · exact .rejected a _ _ hb
  case kfread.isTrue => exact .responded a _
  case kfread.isFalse hb => exact .kfread a (by simpa using hb)
  case openSession.isTrue => exact .responded a _
  case openSession.isFalse ks dir hb =>
    have hb : s.busy = false := by simpa using hb
    split
    · exact .rejected a _ _ hb
    · rename_i hl
      refine .openSession a ks dir hb fun hk => ?_
      cases hh : s.lengthsLegal
      · exact absurd ⟨hk, hh⟩ hl
      · rfl
  case clear.isTrue => exact .responded a _
  case clear.isFalse hb => exact .clear a _ _ _ (by simpa using hb)
  case push.isTrue hc => exact .pushed a _ hc.1 hc.2
  case push.isFalse => exact .responded a _
  case eos.isTrue hc => exact .ended a _ (by simp) hc.1 hc.2
  case eos.isFalse => exact .responded a _
  case srcerr.isTrue hc => exact .ended a _ (by simp) hc.1 hc.2
  case srcerr.isFalse => exact .responded a _

/-- Every host access answers a next state. -/
theorem hostAccess_next (a : Access) (s : State) : ∃ t, hostAccess a s = .next t := by
  cases a with
  | read off size => exact ⟨_, rfl⟩
  | write off size v =>
    simp only [hostAccess]
    split
    · exact ⟨_, rfl⟩
    · unfold cmdPortWrite
      split
      · exact exec_next _ _
      · simp only [State.commandWrite]; split <;> exact ⟨_, rfl⟩
      · exact ⟨_, rfl⟩
    · unfold eventPortWrite
      split
      · exact exec_next _ _
      · exact ⟨_, rfl⟩
    · exact ⟨_, rfl⟩

/-- What a host access can do. -/
theorem hostAccess_effect {a : Access} {s t : State} (h : hostAccess a s = .next t) : Effect s (.host a) t := by
  cases a with
  | read off size => obtain rfl := Host.Outcome.next.inj h; exact .responded _ _
  | write off size v =>
    simp only [hostAccess] at h
    split at h
    · obtain rfl := Host.Outcome.next.inj h; exact .responded _ _
    · unfold cmdPortWrite at h
      split at h
      · exact exec_effect _ h
      · simp only [State.commandWrite] at h
        split at h
        · obtain rfl := Host.Outcome.next.inj h; exact .responded _ _
        · rename_i hb
          obtain rfl := Host.Outcome.next.inj h
          exact .rejected _ _ _ (by simpa using hb)
      · obtain rfl := Host.Outcome.next.inj h; exact .responded _ _
    · unfold eventPortWrite at h
      split at h
      · exact exec_effect _ h
      · obtain rfl := Host.Outcome.next.inj h; exact .responded _ _
    · rename_i r i _ _ ht
      obtain rfl := Host.Outcome.next.inj h
      unfold State.registerWrite
      split
      · exact .responded _ _
      · rename_i hb
        split
        · rename_i t hw
          exact .wrote off size v r i t (by simpa using hb) ht hw
        · exact .responded _ _

/-- What one action can do, whoever takes it. -/
theorem act_effect {a : Action} {s t : State} (h : act a s = .next t) : Effect s a t := by
  cases a with
  | host acc => exact hostAccess_effect h
  | sequencer =>
    obtain rfl := Host.Outcome.next.inj h
    cases hs : s.sequencerStep with
    | none => exact .passed _ (.inl ⟨rfl, hs⟩)
    | some t => exact .sequenced t hs
  | lane j =>
    obtain rfl := Host.Outcome.next.inj h
    cases hs : s.laneStep j with
    | none => exact .passed _ (.inr ⟨j, rfl, hs⟩)
    | some t => exact .laned j t hs
  | codec e info =>
    simp only [act, codecEvent] at h
    split at h
    · rename_i hv
      obtain rfl := Host.Outcome.next.inj h
      exact .codec e info hv
    · cases h
  | reset => obtain rfl := Host.Outcome.next.inj h; exact .reset

/-- The block's own step is a step of one of its agents, or nothing. -/
theorem autoStep_effect (s : State) : ∃ a, (a = .sequencer ∨ ∃ j, a = .lane j) ∧ Effect s a s.autoStep := by
  unfold State.autoStep
  cases hs : s.sequencerStep with
  | some t => exact ⟨.sequencer, .inl rfl, .sequenced t hs⟩
  | none =>
    cases h0 : s.laneStep 0 with
    | some t => exact ⟨.lane 0, .inr ⟨0, rfl⟩, .laned 0 t h0⟩
    | none =>
      refine ⟨.lane 1, .inr ⟨1, rfl⟩, ?_⟩
      cases h1 : s.laneStep 1 with
      | some t => exact .laned 1 t h1
      | none => exact .passed _ (.inr ⟨1, rfl, h1⟩)

/-- What one step can do: the next action of the agenda, or one of the block's own agents. -/
theorem step_effect {s t : State} (h : step s = .next t) :
    (∃ a rest, s.agenda = a :: rest ∧ Effect { s with agenda := rest } a t) ∨
    (s.agenda = [] ∧ ∃ a, (a = .sequencer ∨ ∃ j, a = .lane j) ∧ Effect s a t) := by
  unfold step at h
  split at h
  · rename_i ha
    obtain rfl := Host.Outcome.next.inj h
    exact .inr ⟨ha, autoStep_effect s⟩
  · rename_i a rest ha
    exact .inl ⟨a, rest, ha, act_effect h⟩

/-- The enabled steps of the sequencer, phase by phase (R130, R133, R134, R160, R174, R192). -/
theorem sequencerStep_cases {s t : State} (h : s.sequencerStep = some t) :
    (s.phase = .base ∧ s.op.derives = true ∧ t = s.baseForkStep) ∨
    (s.phase = .stretch ∧ s.op.derives = true ∧ s.laneCnt[0] = 0 ∧ s.laneCnt[1] = 0 ∧ t = s.joinStep) ∨
    (s.phase = .final ∧ s.op.derives = true ∧ t = s.finalStep) ∨
    (s.phase = .select ∧ s.op = .openSession ∧ t = s.selectStep) ∨
    (s.phase = .kfFinish ∧ s.op = .kfread ∧ t = s.kfFinishStep) ∨
    (s.phase = .clear ∧ s.op = .clear ∧ t = s.clearStep) := by
  unfold State.sequencerStep at h
  split at h <;> try (simp at h; done)
  all_goals
    split at h
    · simp only [Option.some.injEq] at h
      simp_all
    · cases h

/-- The enabled step of a lane (R131). -/
theorem laneStep_cases {s t : State} {j : LaneId} (h : s.laneStep j = some t) :
    s.phase = .stretch ∧ s.laneCnt[j] ≠ 0 ∧ t = s.laneEncStep j := by
  unfold State.laneStep at h
  split at h
  · rename_i hc; exact ⟨hc.1, hc.2, by simpa using h.symm⟩
  · cases h

end Sys2Proof.Machine
end

