-- ==== Sys2Proof/Laws/Agenda.lean ====
section
/-! SUPPORT. The agenda only says which step comes next: no action reads it or changes the rest of it, so actions run one
after another compose (R70, R77). -/

namespace Sys2Proof.Machine

/-- An instruction neither reads nor changes the agenda. -/
theorem exec_agenda {i : Instr} {s t : State} (h : exec i s = .next t) (l : List Action) :
    exec i { s with agenda := l } = .next { t with agenda := l } := by
  cases i <;>
    simp only [exec, execDerive, execKfread, execOpenSession, execClear, execPush, execEos, execSrcerr,
      State.commandWrite, State.eventWrite] at h ⊢ <;>
    split at h <;> rename_i hc <;> obtain rfl := Host.Outcome.next.inj h
  case derive.isFalse =>
    rw [if_neg hc]
    have hl : ({ s with agenda := l } : State).accepted.lengthsLegal = s.accepted.lengthsLegal := rfl
    rw [hl]
    split <;> rfl
  case openSession.isFalse ks dir =>
    rw [if_neg hc]
    have hl : ({ s with agenda := l } : State).accepted.lengthsLegal = s.accepted.lengthsLegal := rfl
    rw [hl]
    split
    · rfl
    · cases ks <;> rfl
  all_goals first | rw [if_pos hc]; rfl | rw [if_neg hc]; rfl

/-- A register write leaves the agenda alone. -/
theorem writeReg_agenda (s : State) (r : Reg) (i : Nat) (v : Word) (l : List Action) :
    ({ s with agenda := l } : State).writeReg r i v = (s.writeReg r i v).map fun t => { t with agenda := l } := by
  cases r with
  | array a => cases a <;> simp only [State.writeReg, State.writeWord, State.writeByte, Option.map_some]
  | _ => rfl

/-- A register read does not see the agenda. -/
theorem readReg_agenda (s : State) (r : Reg) (i : Nat) (l : List Action) :
    ({ s with agenda := l } : State).readReg r i = s.readReg r i := by
  cases r with
  | array a => cases a <;> rfl
  | _ => rfl

theorem busRead_agenda (s : State) (off size : Nat) (l : List Action) :
    ({ s with agenda := l } : State).busRead off size = s.busRead off size := by
  unfold State.busRead
  split
  · rfl
  · rw [readReg_agenda]

/-- A host access neither reads nor changes the agenda. -/
theorem hostAccess_agenda {a : Access} {s t : State} (h : hostAccess a s = .next t) (l : List Action) :
    hostAccess a { s with agenda := l } = .next { t with agenda := l } := by
  cases a with
  | read off size =>
    obtain rfl := Host.Outcome.next.inj h
    simp only [hostAccess]
    rw [busRead_agenda]
    rfl
  | write off size v =>
    simp only [hostAccess] at h ⊢
    split at h
    · obtain rfl := Host.Outcome.next.inj h; rfl
    · unfold cmdPortWrite at h ⊢
      split at h
      · exact exec_agenda h l
      · simp only [State.commandWrite] at h ⊢
        split at h <;> rename_i hc <;> obtain rfl := Host.Outcome.next.inj h
        · rw [if_pos hc]; rfl
        · rw [if_neg hc]; rfl
      · obtain rfl := Host.Outcome.next.inj h; rfl
    · unfold eventPortWrite at h ⊢
      split at h
      · exact exec_agenda h l
      · obtain rfl := Host.Outcome.next.inj h; rfl
    · obtain rfl := Host.Outcome.next.inj h
      simp only [State.registerWrite, writeReg_agenda]
      split
      · rfl
      · cases State.writeReg s _ _ v <;> rfl

/-- The sequencer neither reads nor changes the agenda. -/
theorem sequencerStep_agenda (s : State) (l : List Action) :
    ({ s with agenda := l } : State).sequencerStep = s.sequencerStep.map fun t => { t with agenda := l } := by
  have hb : ({ s with agenda := l } : State).baseForkStep = { s.baseForkStep with agenda := l } := by
    unfold State.baseForkStep
    rw [baseOfKeyMaterial_congr (s := s) (t := { s with agenda := l }) rfl rfl rfl rfl]
  have hf : ({ s with agenda := l } : State).finalStep = { s.finalStep with agenda := l } := by
    unfold State.finalStep; simp only; split <;> rfl
  have hs : ({ s with agenda := l } : State).selectStep = { s.selectStep with agenda := l } := by
    unfold State.selectStep State.commitDerivedKey; simp only; cases s.cKs <;> simp only <;> split <;> rfl
  have hk : ({ s with agenda := l } : State).kfFinishStep = { s.kfFinishStep with agenda := l } := by
    unfold State.kfFinishStep; simp only; split <;> rfl
  unfold State.sequencerStep
  rw [hb, hf, hs, hk]
  simp only
  split
  · rfl
  · split <;> rfl
  · split <;> rfl
  · split <;> rfl
  · split <;> rfl
  · rfl
  · split <;> rfl
  · split <;> rfl

/-- A lane neither reads nor changes the agenda. -/
theorem laneStep_agenda (s : State) (j : LaneId) (l : List Action) :
    ({ s with agenda := l } : State).laneStep j = (s.laneStep j).map fun t => { t with agenda := l } := by
  simp only [State.laneStep]
  split
  · unfold State.laneEncStep State.laneBlk; rfl
  · rfl

/-- What an action does does not depend on the rest of the agenda, and leaves it. -/
theorem act_agenda {a : Action} {s t : State} (h : act a s = .next t) (l : List Action) :
    act a { s with agenda := l } = .next { t with agenda := l } := by
  cases a with
  | host a => exact hostAccess_agenda h l
  | sequencer =>
    obtain rfl := Host.Outcome.next.inj h
    simp only [act, sequencerStep_agenda]
    cases s.sequencerStep <;> rfl
  | lane j =>
    obtain rfl := Host.Outcome.next.inj h
    simp only [act, laneStep_agenda]
    cases s.laneStep j <;> rfl
  | codec e info =>
    simp only [act, codecEvent] at h ⊢
    split at h <;> rename_i hc
    · obtain rfl := Host.Outcome.next.inj h; rw [if_pos hc]; rfl
    · cases h
  | reset => obtain rfl := Host.Outcome.next.inj h; rfl

/-- An action that is refused is refused whatever else the agenda holds. -/
theorem act_agenda_refused {a : Action} {s : State} {r : Refusal} (h : act a s = .refused r) (l : List Action) :
    act a { s with agenda := l } = .refused r := by
  cases hl : act a { s with agenda := l } with
  | next t =>
    have := act_agenda hl s.agenda
    exact absurd (h.symm.trans this) (by simp)
  | fault f => exact f.rec
  | refused q =>
    cases a with
    | host a => obtain ⟨t, ht⟩ := hostAccess_next a { s with agenda := l }; exact absurd (hl.symm.trans ht) (by simp)
    | sequencer => cases hl
    | lane j => cases hl
    | codec e info =>
      simp only [act, codecEvent] at h hl
      split at h
      · cases h
      · rename_i hc; rw [if_neg hc] at hl; cases h; cases hl; rfl
    | reset => cases hl

@[simp] theorem runActions_nil (s : State) : s.runActions [] = some { s with agenda := [] } := rfl

/-- One action first, then the others. -/
theorem runActions_cons {a : Action} {s t : State} (h : act a s = .next t) (as : List Action) :
    s.runActions (a :: as) = t.runActions as := by
  unfold State.runActions
  have hs : step { s with agenda := a :: as } = .next { t with agenda := as } := (step_cons rfl).trans (act_agenda h as)
  exact stateAfter_succ _ hs

theorem runActions_cons_refused {a : Action} {s : State} {r : Refusal} (h : act a s = .refused r) (as : List Action) :
    s.runActions (a :: as) = none := by
  unfold State.runActions
  have hs : step { s with agenda := a :: as } = .refused r := (step_cons rfl).trans (act_agenda_refused h as)
  exact stateAfter_succ_refused _ hs

/-- Actions run from their own agenda: the one the state holds does not matter. -/
theorem runActions_agenda (s : State) (l as : List Action) :
    ({ s with agenda := l } : State).runActions as = s.runActions as := rfl

/-- One list of actions after another. -/
theorem runActions_append (as bs : List Action) (s : State) :
    s.runActions (as ++ bs) = (s.runActions as).bind fun t => t.runActions bs := by
  induction as generalizing s with
  | nil => rfl
  | cons a as ih =>
    cases h : act a s with
    | next t => rw [List.cons_append, runActions_cons h, runActions_cons h, ih]
    | fault f => exact f.rec
    | refused r => rw [List.cons_append, runActions_cons_refused h, runActions_cons_refused h]; rfl

/-- Nothing of the actions is left. -/
theorem agenda_of_runActions {as : List Action} {s t : State} (h : s.runActions as = some t) : t.agenda = [] := by
  induction as generalizing s with
  | nil => rw [runActions_nil] at h; cases h; rfl
  | cons a as ih =>
    cases ha : act a s with
    | next u => rw [runActions_cons ha] at h; exact ih h
    | fault f => exact f.rec
    | refused r => rw [runActions_cons_refused ha] at h; cases h

end Sys2Proof.Machine
end

