-- ==== Sys2Proof/Laws/PerInstr.lean ====
section
/-! SUPPORT. Statements made instruction by instruction: an instruction's word, written to its port, selects exactly
its own row of the opcode map (R93, R100). -/

namespace Sys2Proof.Laws.SelectsRow

/-- The word of `i` selects the row of its mnemonic and no other. -/
def Statement (i : Instr) : Prop :=
  ∀ r ∈ opcodeTable, r.selects i.port (encode i) = true ↔ r.mnemonic = i.mnemonic

theorem derive : Statement .derive := by unfold Statement; decide

theorem kfread : Statement .kfread := by unfold Statement; decide

theorem openSession (ks : KeySource) (dir : Direction) : Statement (.openSession ks dir) := by
  unfold Statement; cases ks <;> cases dir <;> decide

theorem clear (km ckey sess : Bool) : Statement (.clear km ckey sess) := by
  unfold Statement; cases km <;> cases ckey <;> cases sess <;> decide

theorem push (b : Byte) : Statement (.push b) := by
  unfold Statement; revert b; decide

theorem eos : Statement .eos := by unfold Statement; decide

theorem srcerr (c : Byte) : Statement (.srcerr c) := by
  unfold Statement; revert c; decide

end Sys2Proof.Laws.SelectsRow
end

