-- ==== Sys2Proof/Laws/Script.lean ====
section
/-! SUPPORT. What a `WAIT` does, poll by poll (R103), and how a read word gives back its bytes (R62). -/

namespace Sys2Proof.Machine

/-- A poll answers `STATUS`. -/
theorem act_poll (s : State) : act (.host pollAccess) s = .next { s with bus := .okData s.statusWord } := by
  have h : busTarget 0x004 4 = some (.status, 0) := by rw [busTarget_eq _ (by decide)]; rfl
  simp only [act, hostAccess, pollAccess, Reg.offset, State.busRead, h, State.readReg]
  rfl

/-- `STATUS` does not show the bus response. -/
@[simp] theorem statusWord_bus (s : State) (r : Response) : ({ s with bus := r } : State).statusWord = s.statusWord := rfl

/-- Bit 0 of `STATUS` is `BUSY` (R32). -/
theorem bit_statusWord_zero (s : State) : bit s.statusWord 0 = s.busy := by
  have hm := s.sess.member.isLt
  have hd : s.done.toNat < 2 := Bool.toNat_lt _
  have he : s.err.toNat < 2 := Bool.toNat_lt _
  have hv : s.sess.valid.toNat < 2 := Bool.toNat_lt _
  unfold bit field State.statusWord
  rw [BitVec.toNat_ofNat]
  generalize s.done.toNat = d at *
  generalize s.err.toNat = e at *
  generalize s.sess.valid.toNat = v at *
  generalize s.sess.member.toNat = m at *
  cases s.busy <;> simp <;> omega

/-- A poll shows an idle block by its value, a busy one by none (R103). -/
theorem idleValue_statusWord (s : State) :
    idleValue (.okData s.statusWord) = if s.busy then none else some s.statusWord := by
  simp only [idleValue, bit_statusWord_zero]

/-- Running actions and then one that answers a state. -/
theorem runActions_snoc {as : List Action} {s t u : State} {a : Action} (h : s.runActions as = some t)
    (ha : act a t = .next u) : s.runActions (as ++ [a]) = some { u with agenda := [] } := by
  rw [runActions_append, h, Option.bind_some, runActions_cons ha, runActions_nil]

/-- A poll after the turns scheduled before it. -/
theorem access_poll (s : State) (sched : Schedule) (taken : List Action) :
    (Progress.mk s sched taken).access pollAccess =
      (s.runActions (sched.headD [])).map fun t =>
        ⟨{ t with bus := .okData t.statusWord }, sched.tail, taken ++ (sched.headD [] ++ [.host pollAccess])⟩ := by
  unfold Progress.access
  simp only
  cases h : s.runActions (sched.headD []) with
  | none => rw [runActions_append, h]; rfl
  | some t =>
    rw [runActions_snoc h (act_poll t)]
    have ha := agenda_of_runActions h
    simp only [Option.map_some, ← ha]

/-- The last poll of a `WAIT`, with no turn left. -/
theorem waitLoop_nil (s : State) (taken : List Action) :
    waitLoop [] s taken =
      if s.busy then none
      else some (s.statusWord,
        ⟨{ s with agenda := [], bus := .okData s.statusWord }, [], taken ++ [.host pollAccess]⟩) := by
  unfold waitLoop
  rw [access_poll]
  simp only [List.headD_nil, runActions_nil, Option.map_some, List.nil_append, List.tail_nil]
  have h : ({ s with agenda := [] } : State).statusWord = s.statusWord := rfl
  rw [h, idleValue_statusWord]
  cases s.busy <;> rfl

/-- One poll of a `WAIT`. -/
theorem waitLoop_cons (turns : List Action) (more : Schedule) (s : State) (taken : List Action) :
    waitLoop (turns :: more) s taken =
      match s.runActions turns with
      | none => none
      | some t =>
        if t.busy then
          waitLoop more { t with bus := .okData t.statusWord } (taken ++ (turns ++ [.host pollAccess]))
        else some (t.statusWord,
          ⟨{ t with bus := .okData t.statusWord }, more, taken ++ (turns ++ [.host pollAccess])⟩) := by
  rw [waitLoop, access_poll]
  simp only [List.headD_cons, List.tail_cons]
  cases s.runActions turns with
  | none => rfl
  | some t =>
    simp only [Option.map_some]
    rw [idleValue_statusWord]
    by_cases hb : t.busy = true
    · simp only [if_pos hb]
    · simp only [if_neg hb]

/-- A script of one `WAIT`. -/
theorem runScript_wait (s : State) (sched : Schedule) :
    s.runScript sched [.wait] = (waitLoop sched s []).map fun x => ([.value x.1], x.2) := by
  unfold State.runScript Progress.lines Progress.line
  simp only
  cases waitLoop sched s [] <;> rfl

/-- The one poll of an empty schedule. -/
theorem pollActions_nil : pollActions [] 0 = [.host pollAccess] := rfl

/-- The first poll of a schedule. -/
theorem pollActions_zero (turns : List Action) (more : Schedule) :
    pollActions (turns :: more) 0 = turns ++ [.host pollAccess] := by
  simp [pollActions]

/-- A later poll: the first one, then the others. -/
theorem pollActions_succ (turns : List Action) (more : Schedule) (k : Nat) :
    pollActions (turns :: more) (k + 1) = turns ++ [.host pollAccess] ++ pollActions more k := by
  simp [pollActions]

/-- The bytes of a packed word are the bytes packed (R62). -/
theorem bytesOfWord_le32 (b0 b1 b2 b3 : Byte) : bytesOfWord (le32 b0 b1 b2 b3) = [b0, b1, b2, b3] := by
  have h0 := b0.isLt
  have h1 := b1.isLt
  have h2 := b2.isLt
  have h3 := b3.isLt
  simp only [bytesOfWord, byteOfWord, le32, field, List.cons.injEq, and_true]
  refine ⟨?_, ?_, ?_, ?_⟩ <;> apply BitVec.eq_of_toNat_eq <;> simp only [BitVec.toNat_ofNat] <;> norm_num <;> omega

/-- An access that answers a state, with no turns scheduled. -/
theorem access_next {p : Progress} {a : Access} {t : State} (hs : p.sched = []) (h : hostAccess a p.state = .next t) :
    p.access a = some ⟨{ t with agenda := [] }, [], p.taken ++ [.host a]⟩ := by
  have ha : act (.host a) p.state = .next t := h
  unfold Progress.access
  rw [hs, List.headD_nil, List.nil_append, runActions_cons ha, runActions_nil]
  rfl

end Sys2Proof.Machine
end

