-- ==== Sys2Proof/Tests/Slice0.lean ====
section
/-! SUPPORT. Tests: words written out from the spec's encodings, the ill-formed terms each check refuses, vectors of
95_test_vectors.md, and for every statement with hypotheses a concrete case that meets them. -/

namespace Sys2Proof.Tests

open Sys2Proof.Machine

/-! ## Decoding (V1 to V18) -/

theorem test_decode_derive : decode .cmd 0b00000000000000000000000000000001 = .instr .derive := by decide

theorem test_decode_kfread : decode .cmd 0b00000000000000000000000000000010 = .instr .kfread := by decide

/-- V3: the four legal `OPEN` words. -/
theorem test_decode_open :
    decode .cmd 0x003 = .instr (.openSession .derived .encrypt) ∧
    decode .cmd 0x103 = .instr (.openSession .supplied .encrypt) ∧
    decode .cmd 0x203 = .instr (.openSession .derived .decrypt) ∧
    decode .cmd 0x303 = .instr (.openSession .supplied .decrypt) := by decide

/-- V4: `CLR` is bits 12:10, `km` the lowest. -/
theorem test_decode_clear :
    decode .cmd 0x004 = .instr (.clear false false false) ∧
    decode .cmd 0x404 = .instr (.clear true false false) ∧
    decode .cmd 0x804 = .instr (.clear false true false) ∧
    decode .cmd 0x1004 = .instr (.clear false false true) := by decide

/-- V14, V15: a zero byte is data. -/
theorem test_decode_push :
    decode .kfPush 0x00000041 = .instr (.push 0x41) ∧ decode .kfPush 0x00000000 = .instr (.push 0x00) := by decide

theorem test_decode_eos : decode .kfPush 0x00000100 = .instr .eos := by decide

theorem test_decode_srcerr : decode .kfPush 0x0000025A = .instr (.srcerr 0x5A) := by decide

/-- V5 to V13: illegal command words carry their opcode byte. -/
theorem test_decode_illegal :
    decode .cmd 0x00000000 = .illegalCommand 0x00 ∧ decode .cmd 0x00000101 = .illegalCommand 0x01 ∧
    decode .cmd 0x00000402 = .illegalCommand 0x02 ∧ decode .cmd 0x00000403 = .illegalCommand 0x03 ∧
    decode .cmd 0x00000104 = .illegalCommand 0x04 ∧ decode .cmd 0x00000204 = .illegalCommand 0x04 ∧
    decode .cmd 0x00002001 = .illegalCommand 0x01 ∧ decode .cmd 0x80000001 = .illegalCommand 0x01 := by decide

/-- V18: words that encode no event. -/
theorem test_decode_no_event :
    decode .kfPush 0x00000101 = .noEvent ∧ decode .kfPush 0x00000300 = .noEvent ∧
    decode .kfPush 0x00000400 = .noEvent := by decide

/-- The words of spec/opcode_table.json, through the host's entry (log 6). -/
theorem test_table_words :
    [0x001, 0x002, 0x003, 0x004, 0x000, 0x100, 0x200].map (decodeTableWord 32) =
      [some .derive, some .kfread, some (.openSession .derived .encrypt), some (.clear false false false),
        some (.push 0), some .eos, some (.srcerr 0)] := by decide

/-- A table word put in after reset runs as the first step: `KFREAD` is issued; `PUSH` there meets no stream (V19). -/
theorem test_fetch_runs :
    step (State.reset.withFetchWord 32 0x002) = exec .kfread State.reset ∧
    step (State.reset.withFetchWord 32 0x041) = .next { State.reset with bus := .error } := ⟨rfl, rfl⟩

/-! ## Well-formedness: each check refuses an ill-formed term -/

theorem test_wf_disp_not_aligned : (HostLine.wr (.array .mseed) 2 0).wellFormed = false := by decide

theorem test_wf_disp_outside : (HostLine.rd (.array .mseed) 16).wellFormed = false := by decide

theorem test_wf_disp_outside_word : (HostLine.wr .rounds 4 0).wellFormed = false := by decide

theorem test_wf_ldb_too_long : (HostLine.ldb .mseed (List.replicate 17 0xFF)).wellFormed = false := by decide

theorem test_wf_accepts :
    (HostLine.wr (.array .mseed) 12 0).wellFormed = true ∧ (HostLine.ldb .mseed (List.replicate 16 0xFF)).wellFormed = true ∧
    HostLine.wait.wellFormed = true ∧ (HostLine.instr (.push 0xFF)).wellFormed = true := by decide

/-! ## The toy configuration `T0` of 95_test_vectors.md section 2 (the spec's fixture, no hardware's) -/

/-- `Mix(c, m)`. -/
def mix (c : Nat) (m : Bytes) : Bytes32 :=
  Vector.ofFn fun i =>
    let h := m.foldl (fun h b => ((h ^^^ b.toNat) * 16777619) % 4294967296) ((c + 0x9E3779B1 * (i.val + 1)) % 4294967296)
    BitVec.ofNat 8 (((h ^^^ (m.length % 4294967296)) * 16777619) % 4294967296 / 16777216)

/-- `Enc 0 k x`. -/
def toyEnc (k : Bytes32) (x : Bytes16) : Bytes16 :=
  Vector.ofFn fun i =>
    BitVec.ofNat 8 (((x[(i.val + 1) % 16]'(by omega)) ^^^ k[i.val]).toNat * 5 + k[i.val + 16].toNat + i.val)

/-- `T0`. -/
def toy : Config.Primitives := ⟨mix 0x811C9DC5, mix 0x01234567, toyEnc⟩

/-- `ms`. -/
def ms : Bytes16 := Vector.ofFn fun i => BitVec.ofNat 8 (0xA0 + i.val)

/-- `ts`. -/
def ts : Bytes32 := Vector.ofFn fun i => BitVec.ofNat 8 (7 * i.val + 3)

/-- `kf`. -/
def kf : Bytes32 := Vector.ofFn fun i => BitVec.ofNat 8 i.val

/-- `00 01 … 0f`. -/
def blk : Bytes16 := Vector.ofFn fun i => BitVec.ofNat 8 i.val

/-- `abc`. -/
def abc : Bytes := [0x61, 0x62, 0x63]

/-- `ten`. -/
def ten : Bytes := [0x30, 0x31, 0x32, 0x33, 0x34, 0x35, 0x36, 0x37, 0x38, 0x39]

/-- `hexl` without its first two and last two characters. -/
def hexMiddle : Bytes :=
    [0x65, 0x31, 0x65, 0x32, 0x65, 0x33, 0x65, 0x34, 0x65, 0x35, 0x65, 0x36, 0x65, 0x37, 0x65, 0x38, 0x65, 0x39,
    0x65, 0x61, 0x65, 0x62, 0x65, 0x63, 0x65, 0x64, 0x65, 0x65, 0x65, 0x66] ++
    [0x66, 0x30, 0x66, 0x31, 0x66, 0x32, 0x66, 0x33, 0x66, 0x34, 0x66, 0x35, 0x66, 0x36, 0x66, 0x37, 0x66, 0x38,
    0x66, 0x39, 0x66, 0x61, 0x66, 0x62, 0x66, 0x63, 0x66, 0x64, 0x66, 0x65]

/-- `e1 e2 … fe`. -/
def decodedMiddle : Bytes := (List.range 30).map fun i => BitVec.ofNat 8 (0xE1 + i)

/-- T3, T4: the fixture's two hashes differ. -/
theorem test_T3_T4 :
    (toy.hgp abc).toList =
      [0x2C, 0x58, 0xF0, 0x8A, 0x97, 0x4E, 0x58, 0xC5, 0x8B, 0xB6, 0x35, 0xE8, 0x97, 0xAD, 0x58, 0xDF, 0xFF, 0x97,
      0x94, 0x47, 0xF6, 0x8B, 0xB7, 0xBD, 0x19, 0xAE, 0xF3, 0x8F, 0x55, 0x80, 0x15, 0x83]
    ∧ (toy.hds abc).toList =
      [0x5F, 0xCC, 0xC0, 0xC0, 0x81, 0x1E, 0xE3, 0xE2, 0xA6, 0x12, 0x06, 0x05, 0x9D, 0x35, 0x44, 0xC0, 0x05, 0x71,
      0x65, 0xE3, 0xFC, 0x13, 0x5B, 0xDA, 0x4B, 0xB8, 0xAA, 0xA9, 0x41, 0xDB, 0xA1, 0xCC]
    := by decide +kernel

/-- T6, V26b, V26c: one and two rounds. -/
theorem test_V26 :
    (stretch toy ts blk 1).toList =
      [0x7D, 0xA3, 0xDD, 0x17, 0x15, 0x3B, 0x75, 0xD7, 0xAD, 0x23, 0x0D, 0x97, 0x95, 0x6B, 0xF5, 0x07]
    ∧ (stretch toy ts blk 2).toList =
      [0x93, 0xAE, 0xA1, 0xCC, 0x47, 0x3A, 0x85, 0xA8, 0x2B, 0x46, 0x19, 0xA4, 0xFF, 0x32, 0xCD, 0x40]
    := by decide +kernel

/-- V22, V25: a key-file hash alone is used unhashed; no material at all hashes the empty string. -/
theorem test_V22_V25 :
    baseHash toy [] (some kf) = kf ∧ (baseHash toy [] none).toList =
      [0xC7, 0x89, 0x4C, 0x0E, 0xD0, 0x93, 0x55, 0x17, 0xDA, 0x9C, 0x5E, 0x21, 0xE3, 0xA5, 0x68, 0x2A, 0xEC, 0xAE,
      0x71, 0x33, 0xF5, 0xB8, 0x7A, 0x3C, 0xFF, 0xC1, 0x83, 0x46, 0x08, 0xCA, 0x8D, 0x4F]
    := by decide +kernel

/-- V23: the third branch, the hashed password first. -/
theorem test_V23 : (baseHash toy abc (some kf)).toList =
      [0x10, 0xA2, 0xA1, 0xC2, 0x9D, 0xCF, 0x70, 0x1D, 0x18, 0xC6, 0xF6, 0x3A, 0x4E, 0x79, 0x8D, 0x87, 0x67, 0xB1,
      0x4E, 0xB8, 0x68, 0x55, 0x16, 0x0B, 0xC7, 0xDC, 0xDA, 0xF1, 0x93, 0x58, 0x91, 0x2B]
    := by decide +kernel

/-- V20: the halves are rejoined in order and the master seed comes first in the last hash. -/
theorem test_V20 : (compute toy abc none ms ts 2).toList =
      [0x38, 0x06, 0x61, 0xFF, 0x8C, 0x3A, 0x7E, 0xFA, 0x8F, 0xD8, 0x32, 0xC5, 0xB4, 0xC2, 0x5F, 0xB6, 0x25, 0x66,
      0x9E, 0xEF, 0x95, 0x28, 0xE7, 0x9C, 0xBA, 0x76, 0xAB, 0xAA, 0x5B, 0x73, 0x28, 0x61]
    := by decide +kernel

/-- V33: both components. -/
theorem test_V33 : (compute toy abc (some kf) ms ts 2).toList =
      [0xFE, 0xDE, 0xDC, 0x68, 0x22, 0x17, 0xA0, 0x95, 0x50, 0xEF, 0x94, 0xBB, 0x62, 0x68, 0x1C, 0xD3, 0x8E, 0xDA,
      0x3C, 0xAD, 0x3D, 0xA3, 0x1E, 0x77, 0x08, 0x72, 0x9D, 0x60, 0xE9, 0x96, 0xFA, 0xDB]
    := by decide +kernel

/-- V91: after reset, no rounds. -/
theorem test_V91 : (compute toy [] none zero16 zero32 0).toList =
      [0xE9, 0xC5, 0x1C, 0xF2, 0xAC, 0xE4, 0xF3, 0xA8, 0x21, 0x92, 0xFD, 0xF4, 0x37, 0x22, 0x97, 0x4E, 0x39, 0x40,
      0xBC, 0x16, 0xB5, 0x41, 0xB2, 0x13, 0xA3, 0x7F, 0x43, 0x34, 0x25, 0x4E, 0x09, 0x66]
    := by decide +kernel

/-- V40, V52: 32 bytes are taken verbatim, whatever the source did after them. -/
theorem test_V40_V52 :
    normalize toy kf.toList .eos = .ok kf ∧ normalize toy kf.toList (.err 0x5A) = .ok kf := by decide +kernel

/-- V41, V42: lower, upper and mixed case decode, the first character the high nibble. -/
theorem test_V41_V42 :
    (hexDecode32 ([0x65, 0x30] ++ hexMiddle ++ [0x66, 0x66])).map Vector.toList = some (0xE0 :: decodedMiddle ++ [0xFF]) ∧
    (hexDecode32 ([0x30, 0x41] ++ hexMiddle ++ [0x66, 0x66])).map Vector.toList = some (0x0A :: decodedMiddle ++ [0xFF]) ∧
    (hexDecode32 ([0x45, 0x30] ++ hexMiddle ++ [0x46, 0x46])).map Vector.toList = some (0xE0 :: decodedMiddle ++ [0xFF]) := by
  decide +kernel

/-- V43, V54: a failed decoding falls through to hashing all 64 bytes, or to the source's error. -/
theorem test_V43_V54 :
    normalize toy ([0x65, 0x30] ++ hexMiddle ++ [0x66, 0x67]) (.err 0x5A) = .error 0x5A ∧
    hexDecode32 ([0x65, 0x30] ++ hexMiddle ++ [0x66, 0x67]) = none ∧
    (toy.hds ([0x65, 0x30] ++ hexMiddle ++ [0x66, 0x67])).toList =
      [0x49, 0xAF, 0x5A, 0x45, 0x6A, 0xF5, 0x2C, 0xB8, 0xAE, 0x35, 0x06, 0x04, 0xFF, 0x55, 0x80, 0x8B, 0xAA, 0xB5,
      0x81, 0x3A, 0x6D, 0xCD, 0xB0, 0x4E, 0xDB, 0xB1, 0x3D, 0x3C, 0x9C, 0xB5, 0x25, 0x8A]
    := by decide +kernel

/-- V50: prefix and remainder together, all 66 bytes. -/
theorem test_V50 :
    normalize toy ([0x65, 0x30] ++ hexMiddle ++ [0x66, 0x66, 0x30, 0x30]) .eos =
      .ok (toy.hds ([0x65, 0x30] ++ hexMiddle ++ [0x66, 0x66, 0x30, 0x30])) ∧
    (toy.hds ([0x65, 0x30] ++ hexMiddle ++ [0x66, 0x66, 0x30, 0x30])).toList =
      [0x34, 0x22, 0xD1, 0x44, 0xB8, 0x5D, 0x03, 0x9A, 0x97, 0x59, 0x24, 0x29, 0x2A, 0x94, 0x90, 0x5B, 0x68, 0x87,
      0x11, 0xDD, 0x12, 0x8C, 0xBA, 0xEE, 0x7A, 0x3F, 0x66, 0x79, 0x92, 0x13, 0xB8, 0xE0]
    := by decide +kernel

/-- V44, V55: ten bytes. -/
theorem test_V44_V55 :
    normalize toy ten (.err 0x5A) = .error 0x5A ∧ normalize toy ten .eos = .ok (toy.hds ten) ∧ (toy.hds ten).toList =
      [0xC0, 0x89, 0x11, 0x10, 0x85, 0x97, 0x02, 0x54, 0xF4, 0xBF, 0x04, 0x08, 0xFF, 0x42, 0x3C, 0x86, 0x6A, 0xD8,
      0xEE, 0x4C, 0x01, 0xD2, 0x96, 0x4F, 0x25, 0xEF, 0xF7, 0xF7, 0x76, 0xC1, 0x77, 0x45]
    := by decide +kernel

/-- V66: the padding counts. -/
theorem test_V66 : [0, 1, 15, 16, 17, 1000].map padCount = [16, 15, 1, 16, 15, 8] := by decide

/-! ## States of the tests -/

/-- An idle block with a password, parameters, a finished earlier command and an error on record. -/
def idle : State :=
  { State.reset with
    pw := [(0, 0x61), (1, 0x62), (2, 0x63)], pwLen := 3, mseed := ms, tseed := ts, rounds := 2, ckey := kf, done := true
    err := true, errcode := 0x00001011, doneIe := true, bus := .ok }

/-- `idle` with a session open for decryption. -/
def withSession : State := { idle with sess := ⟨true, 0, kf, ms, .decrypt⟩ }

/-- A `KFREAD` whose stream has delivered ten bytes. -/
def streaming : State := { idle with done := false, busy := true, op := .kfread, phase := .kfStream, kfAll := ten }

/-- A `DERIVE` that has just been issued. -/
def issued : State := { idle with done := false, busy := true, op := .derive, phase := .base }

/-- `issued` after its base-and-fork step. -/
def stretching : State := issued.baseForkStep

/-- A `DERIVE` after its join. -/
def finishing : State := { idle with done := false, busy := true, op := .derive, phase := .final, keyTmp := idle.derivedKey }

/-- An `OPEN ks=0` at its select step. -/
def selecting : State :=
  { idle with done := false, busy := true, op := .openSession, phase := .select, keyTmp := idle.derivedKey }

/-- An `OPEN ks=0` whose two lanes have finished. -/
def joining : State := { issued with op := .openSession, phase := .stretch }

/-- `streaming` after the source has failed. -/
def ended : State := { streaming with phase := .kfFinish, kfEnd := .err 0x5A }

/-- An `OPEN ks=1` at its select step, with identifier 2. -/
def selectingBad : State :=
  { idle with
    done := false, busy := true, op := .openSession, phase := .select, cKs := .supplied, cid := 2, keyTmp := kf
    err := false, errcode := 0 }

/-- A `CLEAR ckey sess` in flight. -/
def clearing : State :=
  { withSession with done := false, busy := true, op := .clear, phase := .clear, cClr := ⟨false, true, true⟩ }

/-! ## One step of each instruction -/

/-- V32: the stale length 16 is refused at the write. -/
theorem test_derive_bad_length :
    ∃ t, exec .derive { State.reset with kfLen := 16, done := true } = .next t ∧ t.statusWord = 0x00000004 ∧
      t.errcode = 0x00001011 ∧ t.op = .none := ⟨_, rfl, by decide⟩

/-- V91: after reset `DERIVE` is issued, with `STATUS = 1`. -/
theorem test_derive_issue :
    ∃ t, exec .derive State.reset = .next t ∧ t.statusWord = 0x00000001 ∧ t.phase = .base ∧ t.bus = .ok :=
  ⟨_, rfl, by decide⟩

/-- P2 line 1: `KFREAD` clears `DONE` and opens the stream. -/
theorem test_kfread_issue :
    ∃ t, exec .kfread idle = .next t ∧ t.statusWord = 0x00000005 ∧ t.phase = .kfStream ∧ t.kfAll = [] :=
  ⟨_, rfl, by decide⟩

/-- V55, V59: the source's failure is `E_IO` with its code; `KFH` and `KF_LEN` are kept. -/
theorem test_kfread_source_error :
    ∃ t, step { streaming with kfEnd := .err 0x5A, phase := .kfFinish, err := false, errcode := 0, kfh := kf, kfLen := 32 } =
        .next t ∧ t.statusWord = 0x00000004 ∧ t.errcode = 0x00005A03 ∧ t.kfh = kf ∧ t.kfLen = 32 := ⟨_, rfl, by decide⟩

/-- V37: bad lengths leave an earlier session open. -/
theorem test_open_bad_length :
    ∃ t, exec (.openSession .derived .encrypt) { withSession with kfLen := 33, err := false, errcode := 0 } = .next t ∧
      t.errcode = 0x00002111 ∧ t.sess = withSession.sess := ⟨_, rfl, by decide⟩

/-- V65, V61: an unsupported identifier leaves no session and `CKEY` unchanged; identifier 1 opens one for decryption. -/
theorem test_open_select :
    (∃ t, step selectingBad = .next t ∧ t.statusWord = 0x00000004 ∧ t.errcode = 0x00000201 ∧ t.ckey = kf) ∧
    (∃ t, step { selectingBad with cid := 1, cDir := .decrypt } = .next t ∧ t.statusWord = 0x0000000A ∧
      t.sess.key = kf ∧ t.sess.dir = .decrypt) := ⟨⟨_, rfl, by decide⟩, _, rfl, by decide⟩

/-- V72: `CLEAR ckey sess`. -/
theorem test_clear_ckey_sess :
    ∃ t, step { clearing with err := false, errcode := 0 } = .next t ∧ t.statusWord = 0x00000002 ∧ t.ckey = zero32 ∧
      t.sess = Session.closed ∧ t.pw = idle.pw := ⟨_, rfl, by decide⟩

/-- V71: `CLEAR km`. -/
theorem test_clear_km :
    ∃ t, step { clearing with cClr := ⟨true, false, false⟩, kfh := kf, kfLen := 32 } = .next t ∧ t.pw = [] ∧
      t.kmLenWord = 0 ∧ t.kfh = zero32 ∧ t.ckey = kf ∧ t.sess.valid = true := ⟨_, rfl, by decide⟩

/-- V14: the byte is appended at the end. -/
theorem test_push :
    ∃ t, exec (.push 0x41) streaming = .next t ∧ t.kfAll = ten ++ [0x41] ∧ t.phase = .kfStream ∧ t.bus = .ok :=
  ⟨_, rfl, by decide⟩

/-- V19: idle. -/
theorem test_push_refused : exec (.push 0x41) idle = .next { idle with bus := .error } := rfl

/-- V16. -/
theorem test_eos : ∃ t, exec .eos streaming = .next t ∧ t.phase = .kfFinish ∧ t.kfEnd = .eos := ⟨_, rfl, by decide⟩

/-- V17. -/
theorem test_srcerr :
    ∃ t, exec (.srcerr 0x5A) streaming = .next t ∧ t.phase = .kfFinish ∧ t.kfEnd = .err 0x5A := ⟨_, rfl, by decide⟩

/-! ## The other agents -/

/-- V107, V109: ignored bits of `KM_LEN` and `IRQ_EN`. -/
theorem test_control_writes :
    (∃ t, hostAccess (.write 0x014 4 0xFF200003) idle = .next t ∧ t.kmLenWord = 0x00200003) ∧
    (∃ t, hostAccess (.write 0x00C 4 0xFFFFFFFF) idle = .next t ∧ t.irqEnWord = 0x00000006) :=
  ⟨⟨_, rfl, by decide⟩, ⟨_, rfl, by decide⟩⟩

/-- V106: `MSEED[4..8) = a4 a5 a6 a7`. -/
theorem test_array_write :
    ∃ t, hostAccess (.write 0x024 4 0xA7A6A5A4) State.reset = .next t ∧
      t.mseed.toList = [0, 0, 0, 0, 0xA4, 0xA5, 0xA6, 0xA7, 0, 0, 0, 0, 0, 0, 0, 0] ∧
      hostAccess (.read 0x024 4) t = .next { t with bus := .okData 0xA7A6A5A4 } := ⟨_, rfl, by decide, rfl⟩

/-- V75: only `DONE` is acknowledged. -/
theorem test_ack_done :
    ∃ t, hostAccess (.write 0x004 4 0x00000002) idle = .next t ∧ t.statusWord = 0x00000004 ∧ t.errcode = 0x00001011 :=
  ⟨_, rfl, by decide⟩

/-- V82: an illegal word is `E_BADCMD` before any length is looked at. -/
theorem test_bad_command :
    ∃ t, hostAccess (.write 0x000 4 0x00000101) { State.reset with kfLen := 16 } = .next t ∧ t.errcode = 0x00000110 :=
  ⟨_, rfl, by decide⟩

/-- V85: a codec error keeps the session. -/
theorem test_codec_error :
    ∃ t, act (.codec .io 0x7F) { withSession with err := false, errcode := 0 } = .next t ∧ t.statusWord = 0x0000000E ∧
      t.errcode = 0x00007F03 := ⟨_, rfl, by decide⟩

/-- V92: reset abandons a stream. -/
theorem test_reset :
    act .reset streaming = .next { State.reset with agenda := streaming.agenda } := rfl

/-! ## Scripts, and a failing stream -/

/-- R103: `CLEAR km`; `WAIT`, whose first poll reads `BUSY = 1` and whose second, after a turn of the sequencer, does not;
`RDB KFH`. -/
theorem test_script_wait :
    ({ idle with kfh := kf, err := false, errcode := 0 }.runScript [[], [], [.sequencer]]
      [.instr (.clear true false false), .wait, .rdb .kfh]).map Prod.fst =
      some [.responses [.ok], .value 0x00000002, .bytes (List.replicate 32 0)] := by decide

/-- R103: `RDB` gives the register's bytes in order; `ACK`. -/
theorem test_script_rdb :
    (idle.runScript [] [.rdb .ckey, .ack]).map Prod.fst =
      some [.bytes ((List.range 32).map fun i => BitVec.ofNat 8 i), .responses [.ok]] := by decide

/-- R208. -/
theorem test_codec_stream_failure :
    codecStream withSession.cipherPort [1, 2, 3] (.failed 0x7F) = some (.error .io 0x7F) := rfl

/-! ## Witnesses: for every statement with hypotheses, states and operands that meet them -/

theorem three_le_pwMax : 3 ≤ Config.pwMax := Nat.le_trans (by decide) Config.four_le_pwMax

theorem idle_lengths : idle.lengthsLegal = true := by
  have := three_le_pwMax
  simp [State.lengthsLegal, idle, State.reset, this]

/-- The shape shared by the witnesses of `MachineInv`: everything but the password window is decided. -/
theorem idle_inv : MachineInv idle where
  pwCanonical := by decide
  pwInWindow := by
    have := three_le_pwMax
    intro c hc
    simp [idle] at hc
    rcases hc with rfl | rfl | rfl <;> simp <;> omega
  busyIffOp := by decide
  phaseLegal := by decide
  busyNotDone := by decide
  errClear := by decide
  errRecorded := fun _ => ⟨.badLen, 16, by decide⟩
  sessClosed := by decide
  sessMember := by decide
  openClosesSession := by decide
  lengthsChecked := fun h => by simp [idle, State.reset] at h
  openFields := by decide
  clearField := by decide
  baseBufZero := by decide
  laneCntZero := by decide
  laneCntBound := by decide
  keyTmpZero := by decide
  streamOnlyKfread := by decide
  streamOpen := by decide
  streamEnded := by decide

theorem withSession_inv : MachineInv withSession :=
  { idle_inv with
    sessClosed := by decide
    openClosesSession := by decide }

theorem streaming_inv : MachineInv streaming :=
  { idle_inv with
    busyIffOp := by decide
    phaseLegal := by decide
    busyNotDone := by decide
    openClosesSession := by decide
    lengthsChecked := fun h => by simp [streaming] at h
    openFields := by decide
    clearField := by decide
    baseBufZero := by decide
    laneCntZero := by decide
    keyTmpZero := by decide
    streamOnlyKfread := by decide
    streamOpen := by decide
    streamEnded := by decide }

theorem issued_inv : MachineInv issued :=
  { idle_inv with
    busyIffOp := by decide
    phaseLegal := by decide
    busyNotDone := by decide
    openClosesSession := by decide
    lengthsChecked := fun _ => idle_lengths
    openFields := by decide
    clearField := by decide
    baseBufZero := by decide
    laneCntZero := by decide
    keyTmpZero := by decide
    streamOnlyKfread := by decide
    streamOpen := by decide
    streamEnded := by decide }

theorem finishing_inv : MachineInv finishing :=
  { idle_inv with
    busyIffOp := by decide
    phaseLegal := by decide
    busyNotDone := by decide
    openClosesSession := by decide
    lengthsChecked := fun _ => idle_lengths
    openFields := by decide
    clearField := by decide
    baseBufZero := by decide
    laneCntZero := by decide
    keyTmpZero := fun h => absurd rfl h
    streamOnlyKfread := by decide
    streamOpen := by decide
    streamEnded := by decide }

theorem finishing_open_inv : MachineInv { finishing with op := .openSession } :=
  { finishing_inv with
    busyIffOp := by decide
    phaseLegal := by decide
    openClosesSession := by decide
    lengthsChecked := fun _ => idle_lengths
    openFields := by decide
    clearField := by decide
    streamOnlyKfread := by decide }

theorem joining_inv : MachineInv joining :=
  { issued_inv with
    busyIffOp := by decide
    phaseLegal := by decide
    openClosesSession := by decide
    lengthsChecked := fun _ => idle_lengths
    openFields := by decide
    clearField := by decide
    baseBufZero := by decide
    laneCntZero := by decide
    keyTmpZero := by decide
    streamOnlyKfread := by decide
    streamOpen := by decide
    streamEnded := by decide }

theorem selectingBad_inv : MachineInv selectingBad :=
  { idle_inv with
    busyIffOp := by decide
    phaseLegal := by decide
    busyNotDone := by decide
    errClear := by decide
    errRecorded := fun h => by simp [selectingBad] at h
    openClosesSession := by decide
    lengthsChecked := by decide
    openFields := by decide
    clearField := by decide
    baseBufZero := by decide
    laneCntZero := by decide
    keyTmpZero := by decide
    streamOnlyKfread := by decide
    streamOpen := by decide
    streamEnded := by decide }

theorem ended_inv : MachineInv ended :=
  { streaming_inv with
    phaseLegal := by decide
    lengthsChecked := fun h => by simp [ended, streaming] at h
    streamOnlyKfread := by decide
    baseBufZero := by decide
    laneCntZero := by decide
    keyTmpZero := by decide
    streamOpen := by decide
    streamEnded := by decide }

theorem finishing_dinv : DerivationInv finishing where
  lanes := by decide
  joined := fun _ => rfl
  resolved := by decide

theorem test_inv_witnesses :
    MachineInv idle ∧ MachineInv withSession ∧ MachineInv streaming ∧ MachineInv issued ∧ MachineInv finishing ∧ DerivationInv finishing :=
  ⟨idle_inv, withSession_inv, streaming_inv, issued_inv, finishing_inv, finishing_dinv⟩

/-- DecodeOfEncodeIsInstr, EncodeOfDecodeIsWord, WordDecodesExactlyWhenItSelectsARow. -/
theorem test_witness_encoding :
    (Instr.clear true false true).wellFormed = true ∧ decode .cmd 0x1404 = .instr (.clear true false true) ∧
    (∃ r ∈ opcodeTable, r.selects .kfPush 0x2FF = true) := by decide

/-- StepRunsTheDecodedInstruction, one case for each clause. -/
theorem test_witness_step :
    ({ idle with agenda := [.lane 0] } : State).agenda = .lane 0 :: [] ∧ idle.agenda = [] ∧
    ({ idle with agenda := [.host (.write (portOffset .cmd) 4 0x1)] } : State).agenda =
      .host (.write (portOffset .cmd) 4 0x1) :: [] ∧
    decode .cmd 0x1 = .instr .derive ∧ decodeTableWord 32 0x303 = some (.openSession .supplied .decrypt) := by decide

/-- IllegalCommandWordRecordsBadCmd. -/
theorem test_witness_illegal :
    idle.busy = false ∧ (0x00000000 : Word) ∉ legalCommandWords ∧ (0x00002001 : Word) ∉ legalCommandWords := by decide

/-- BusErrorChangesNothing: a read of the write-only `CMD`. -/
theorem test_witness_bus_error : ∃ t, hostAccess (.read 0x000 4) idle = .next t ∧ t.bus = .error := ⟨_, rfl, rfl⟩

/-- WrongWidthOrAlignmentIsRefused, UnmappedOffsetIsRefused: the edges of each range. -/
theorem test_witness_refused_offsets :
    (2 ≠ 4 ∨ 0x020 % 4 ≠ 0) ∧ (4 ≠ 4 ∨ 0x022 % 4 ≠ 0) ∧
    (∀ off ∈ [0x030, 0x03F, 0x0B0, 0x0FF],
      (0x030 ≤ off ∧ off ≤ 0x03F) ∨ (0x0B0 ≤ off ∧ off ≤ 0x0FF) ∨ 0x100 + Config.pwMax ≤ off) ∧
    0x100 + Config.pwMax ≤ 0x100 + Config.pwMax := by
  refine ⟨by decide, by decide, ?_, Nat.le_refl _⟩
  intro off h
  simp only [List.mem_cons, List.not_mem_nil, or_false] at h
  omega

/-- ReadsReturnRegistersAndChangeNothing, ArrayWordWriteStoresFourBytes: the first and the last word of registers. -/
theorem test_witness_array_words :
    Memory.wf idle.pw ∧ idle.busy = false ∧ 4 * 0 + 4 ≤ ByteReg.size .mseed ∧ 4 * 3 + 4 ≤ ByteReg.size .mseed ∧
    4 * 7 + 4 ≤ ByteReg.size .ckey ∧ 4 * (Config.pwMax / 4 - 1) + 4 ≤ ByteReg.size .pw := by
  refine ⟨by decide, by decide, by decide, by decide, by decide, ?_⟩
  have := Config.four_le_pwMax
  simp only [ByteReg.size]
  omega

/-- BusyBlockRefusesWritesAndKeepsItsInputs, CommandWhileBusyIsTurnedAway: a command in flight that goes on. -/
theorem test_witness_busy :
    issued.busy = true ∧ 0x080 ≠ 0x01C ∧ Instr.port .kfread = .cmd ∧
    ∃ t, step issued = .next t ∧ t.busy = true := ⟨rfl, by decide, rfl, _, rfl, rfl⟩

/-- KfPushIsAcceptedExactlyInAnOpenStream: both responses; StreamEventsAct: both cases. -/
theorem test_witness_stream :
    streaming.op = .kfread ∧ streaming.phase = .kfStream ∧ ¬ (idle.op = .kfread ∧ idle.phase = .kfStream) ∧
    (∃ t, hostAccess (.write 0x01C 4 0x41) streaming = .next t ∧ t.bus = .ok) ∧
    (∃ t, hostAccess (.write 0x01C 4 0x300) streaming = .next t ∧ t.bus ≠ .ok) :=
  ⟨rfl, rfl, by decide, ⟨_, rfl, rfl⟩, ⟨_, rfl, by decide⟩⟩

/-- AckIsTheOnlyWayToClearErr: idle, busy, and the two ways `ERR` goes from 1 to 0. -/
theorem test_witness_ack :
    idle.busy = false ∧ issued.busy = true ∧
    (∃ t, step { idle with agenda := [.host (.write 0x004 4 0x4)] } = .next t ∧ t.err = false) ∧
    (∃ t, step { idle with agenda := [.reset] } = .next t ∧ t.err = false) ∧ idle.err = true :=
  ⟨rfl, rfl, ⟨_, rfl, rfl⟩, ⟨_, rfl, rfl⟩, rfl⟩

/-- LegalCommandsIssue, and the premises of the run statements: an idle block with legal lengths and no agenda. -/
theorem test_witness_idle :
    MachineInv idle ∧ idle.busy = false ∧ idle.lengthsLegal = true ∧ idle.agenda = [] ∧ KfEnd.eos ≠ .none :=
  ⟨idle_inv, rfl, idle_lengths, rfl, by decide⟩

/-- BadLengthsAreRejectedAtIssue: a bad `KF_LEN`, and a `PW_LEN` above every admissible `PW_MAX`. -/
theorem test_witness_bad_lengths :
    ¬ (((16 : BitVec 8).toNat = 0 ∨ (16 : BitVec 8).toNat = 32) ∧ idle.pwLen.toNat ≤ Config.pwMax) ∧
    ¬ (((0 : BitVec 8).toNat = 0 ∨ (0 : BitVec 8).toNat = 32) ∧ (65533 : BitVec 16).toNat ≤ Config.pwMax) := by
  have := Config.pwMax_le
  simp
  omega

/-- FirstErrorWins: a second error while `ERR` is 1. -/
theorem test_witness_first_error :
    ∃ t, step { idle with agenda := [.host (.write 0x000 4 0)] } = .next t ∧ idle.err = true ∧ t.err = true ∧
      t.errcode = 0x00001011 := ⟨_, rfl, rfl, rfl, by decide⟩

/-- CodecErrorIsRecordedUnmodified: with and without a session. -/
theorem test_witness_codec : withSession.sess.valid = true ∧ idle.sess.valid = false := by decide

/-- BaseHashTakesExactlyOneBranch: the three branches. -/
theorem test_witness_branches :
    idle.kfLen = 0 ∧ (({ idle with kfLen := 32, pwLen := 0 } : State).kfLen ≠ 0) ∧
    ({ idle with kfLen := 32, pwLen := 0 } : State).pwLen = 0 ∧ ({ idle with kfLen := 32 } : State).kfLen ≠ 0 ∧
    ({ idle with kfLen := 32 } : State).pwLen ≠ 0 := by decide

/-- DerivationIgnoresWhatTheLengthsExclude: another byte at index 3, above `PW_LEN` (V39). -/
theorem test_witness_excluded :
    ∀ i, i < idle.pwLen.toNat → Memory.read [(0, 0x61), (1, 0x62), (2, 0x63), (3, 0x64)] i = Memory.read idle.pw i := by
  decide

/-- LanesStepIndependently: lane 0 enabled, lane 1 the other. -/
theorem test_witness_lane : ∃ t, stretching.laneStep 0 = some t ∧ (1 : LaneId) ≠ 0 := ⟨_, rfl, by decide⟩

/-- NormalizeFollowsTheTable, HexDecodeFailsExactlyOnANonDigit: each row. -/
theorem test_witness_normalize :
    kf.toList.length = 32 ∧ ([0x65, 0x30] ++ hexMiddle ++ [0x66, 0x66]).length = 64 ∧
    (∃ d, hexDecode32 ([0x65, 0x30] ++ hexMiddle ++ [0x66, 0x66]) = some d) ∧
    hexDecode32 ([0x65, 0x30] ++ hexMiddle ++ [0x66, 0x67]) = none ∧ ten.length ≠ 32 ∧ ten.length ≠ 64 :=
  ⟨by decide, by decide, ⟨_, rfl⟩, by decide, by decide, by decide⟩

/-- HexDecodeFailsExactlyOnANonDigit: both ends of each range of digits (V41, V42), and their neighbours. -/
theorem test_witness_hexval :
    [0x30, 0x39, 0x61, 0x66, 0x41, 0x46].map hexval = [some 0, some 9, some 10, some 15, some 10, some 15] ∧
    [0x2F, 0x3A, 0x60, 0x67, 0x40, 0x47].map hexval = [none, none, none, none, none, none] := by decide

/-- SequencerStepsOfTheDerivation: each phase; `stretching` has `ROUNDS = 2` still to do. -/
theorem test_witness_sequencer :
    (MachineInv issued ∧ issued.op = .derive ∧ issued.phase = .base) ∧
    (stretching.phase = .stretch ∧ ¬ (stretching.laneCnt[0] = 0 ∧ stretching.laneCnt[1] = 0)) ∧
    (MachineInv finishing ∧ finishing.phase = .final ∧ finishing.op = .derive) ∧
    (MachineInv joining ∧ joining.op = .openSession ∧ joining.phase = .stretch ∧ joining.laneCnt[0] = 0 ∧ joining.laneCnt[1] = 0) ∧
    (MachineInv { finishing with op := .openSession } ∧ finishing.phase = .final) :=
  ⟨⟨issued_inv, rfl, rfl⟩, ⟨rfl, by decide⟩, ⟨finishing_inv, rfl, rfl⟩, ⟨joining_inv, rfl, rfl, rfl, rfl⟩,
    finishing_open_inv, rfl⟩

/-- SelectStepOpensOrReports, FinishStepStoresTheHashOrReports: both outcomes of each. -/
theorem test_witness_select_finish :
    selecting.op = .openSession ∧ selecting.phase = .select ∧ (selecting.cid = 0x00 ∨ selecting.cid = 0x01) ∧
    MachineInv selectingBad ∧ selectingBad.op = .openSession ∧ selectingBad.phase = .select ∧
    ¬ (selectingBad.cid = 0x00 ∨ selectingBad.cid = 0x01) ∧ MachineInv ended ∧ ended.op = .kfread ∧ ended.phase = .kfFinish ∧
    normalize Config.primitives ended.kfAll ended.kfEnd = .error 0x5A ∧
    normalize Config.primitives kf.toList .eos = .ok kf :=
  ⟨rfl, rfl, by decide, selectingBad_inv, rfl, rfl, by decide, ended_inv, rfl, rfl, rfl, rfl⟩

/-- EveryScheduleDerivesTheSameKey: the step that ends a `DERIVE`. -/
theorem test_witness_last_step :
    MachineInv finishing ∧ DerivationInv finishing ∧ finishing.op = .derive ∧ ∃ t, step finishing = .next t ∧ t.op ≠ .derive :=
  ⟨finishing_inv, finishing_dinv, rfl, _, rfl, by decide⟩

/-- DeriveCompletesUnderEveryFairSchedule: seven fair stretches for `ROUNDS = 2`. -/
theorem test_witness_fair :
    2 * idle.rounds.toNat + 3 ≤ (List.replicate 7 [Action.lane 1, .sequencer, .lane 0]).length ∧
    ∀ l ∈ List.replicate 7 [Action.lane 1, .sequencer, .lane 0], fairRound l := by
  refine ⟨by decide, fun l h => ?_⟩
  obtain rfl := List.eq_of_mem_replicate h
  unfold fairRound
  decide

/-- KfreadStaysBusyUntilItsStreamEnds: the stream goes on, ends, or is reset. -/
theorem test_witness_kfread :
    MachineInv streaming ∧ streaming.phase = .kfStream ∧ (∃ t, step streaming = .next t) ∧
    (∃ t, step { streaming with agenda := [.host (.write 0x01C 4 0x100)] } = .next t ∧ t.phase = .kfFinish) :=
  ⟨streaming_inv, rfl, ⟨_, rfl⟩, ⟨_, rfl, rfl⟩⟩

/-- InternalStepsCountDownToCompletion, one case for each clause. -/
theorem test_witness_countdown :
    (MachineInv finishing ∧ ∃ t, finishing.internalStep .sequencer = some t) ∧
    (MachineInv streaming ∧ streaming.busy = true ∧ Action.internal (.host (.read 0x004 4)) = false ∧
      ∃ t, act (.host (.read 0x004 4)) streaming = .next t) ∧
    (MachineInv issued ∧ issued.busy = true ∧ issued.phase ≠ .kfStream) :=
  ⟨⟨finishing_inv, _, rfl⟩, ⟨streaming_inv, rfl, rfl, _, rfl⟩, issued_inv, rfl, by decide⟩

/-- StepKeepsTheInvariants, StepKeepsTheDerivationInvariant. -/
theorem test_witness_keeps :
    MachineInv finishing ∧ DerivationInv finishing ∧ (∃ t, step finishing = .next t) ∧ MachineInv issued ∧
    ∃ t, step issued = .next t ∧ t.phase = .stretch :=
  ⟨finishing_inv, finishing_dinv, ⟨_, rfl⟩, issued_inv, _, rfl, rfl⟩

/-- HiddenStateIsDeadOutsideACommand: an idle block, and a step that ends a command. -/
theorem test_witness_hidden :
    (MachineInv idle ∧ idle.busy = false) ∧
    (MachineInv finishing ∧ finishing.busy = true ∧ ∃ t, step finishing = .next t ∧ t.busy = false) :=
  ⟨⟨idle_inv, rfl⟩, finishing_inv, rfl, _, rfl, rfl⟩

/-- ParametersAreWrittenOnlyByTheHost: a host write in each window, and reset. -/
theorem test_witness_parameters :
    (∃ t, step { idle with agenda := [.host (.write 0x02C 4 5)] } = .next t ∧ t.mseed ≠ idle.mseed) ∧
    (∃ t, step { idle with agenda := [.host (.write 0x05C 4 5)] } = .next t ∧ t.tseed ≠ idle.tseed) ∧
    (∃ t, step { idle with agenda := [.host (.write 0x010 4 5)] } = .next t ∧ t.rounds ≠ idle.rounds) ∧
    (∃ t, step { idle with agenda := [.host (.write 0x0AC 4 5)] } = .next t ∧ t.iv ≠ idle.iv) ∧
    (∃ t, step { idle with agenda := [.host (.write 0x018 4 5)] } = .next t ∧ t.cid ≠ idle.cid) ∧
    (∃ t, step { idle with agenda := [.host (.write 0x00C 4 6)] } = .next t ∧ t.errIe ≠ idle.errIe) ∧
    (∃ t, step { idle with agenda := [.reset] } = .next t ∧ t.rounds ≠ idle.rounds) :=
  ⟨⟨_, rfl, by decide⟩, ⟨_, rfl, by decide⟩, ⟨_, rfl, by decide⟩, ⟨_, rfl, by decide⟩, ⟨_, rfl, by decide⟩,
    ⟨_, rfl, by decide⟩, ⟨_, rfl, by decide⟩⟩

/-- A write of the first word of `PW`, whose window is wide enough for every admissible `PW_MAX`. -/
theorem step_write_pw :
    ∃ t, step { idle with agenda := [.host (.write 0x100 4 5)] } = .next t ∧ t.pw = [(0, 5)] := by
  have h := busTarget_array .pw 0 Config.four_le_pwMax
  refine ⟨(({ idle with agenda := [] } : State).writeWord .pw 0 5).respond .ok, ?_, by decide⟩
  simp only [step, act, hostAccess]
  simp only [Reg.offset, Nat.mul_zero, Nat.add_zero] at h
  simp only [h]
  rfl

/-- KeyMaterialHasOnlyItsWriters: the host, `CLEAR km`, a `KFREAD` that stores a hash, reset. -/
theorem test_witness_key_material :
    (∃ t, step { idle with agenda := [.host (.write 0x100 4 5)] } = .next t ∧ t.pw = [(0, 5)]) ∧
    (∃ t, step { idle with agenda := [.host (.write 0x014 4 0x200005)] } = .next t ∧ t.pwLen ≠ idle.pwLen ∧
      t.kfLen ≠ idle.kfLen) ∧
    (∃ t, step { idle with agenda := [.host (.write 0x07C 4 5)] } = .next t ∧ t.kfh ≠ idle.kfh) ∧
    (∃ t, step { clearing with cClr := ⟨true, false, false⟩, kfh := kf, kfLen := 32 } = .next t ∧ t.pw ≠ clearing.pw ∧
      t.pwLen ≠ clearing.pwLen ∧ t.kfLen = 0 ∧ t.kfh ≠ kf) ∧
    (∃ t, step { ended with kfAll := kf.toList, kfEnd := .eos } = .next t ∧ t.kfh = kf ∧ kf ≠ ended.kfh ∧
      t.kfLen ≠ ended.kfLen) ∧
    (∃ t, step { idle with agenda := [.reset] } = .next t ∧ t.pw ≠ idle.pw ∧ t.pwLen ≠ idle.pwLen) :=
  ⟨step_write_pw, ⟨_, rfl, by decide⟩, ⟨_, rfl, by decide⟩, ⟨_, rfl, by decide⟩, ⟨_, rfl, by decide⟩,
    ⟨_, rfl, by decide⟩⟩

/-- CkeyHasExactlyFiveWriters: host writes at both ends of the window, `CLEAR ckey`, reset. -/
theorem test_witness_ckey :
    (∃ t, step { idle with agenda := [.host (.write 0x080 4 5)] } = .next t ∧ t.ckey ≠ idle.ckey) ∧
    (∃ t, step { idle with agenda := [.host (.write 0x09C 4 5)] } = .next t ∧ t.ckey ≠ idle.ckey) ∧
    (∃ t, step clearing = .next t ∧ t.ckey ≠ clearing.ckey) ∧
    (∃ t, step { idle with agenda := [.reset] } = .next t ∧ t.ckey ≠ idle.ckey) :=
  ⟨⟨_, rfl, by decide⟩, ⟨_, rfl, by decide⟩, ⟨_, rfl, by decide⟩, ⟨_, rfl, by decide⟩⟩

/-- The two derived writers of `CKEY`: whatever the derived key is, it is what `CKEY` holds after the step. -/
theorem test_witness_ckey_derived :
    (∃ t, step finishing = .next t ∧ t.ckey = idle.derivedKey) ∧
    (∃ t, step selecting = .next t ∧ t.ckey = idle.derivedKey) := ⟨⟨_, rfl, rfl⟩, ⟨_, rfl, rfl⟩⟩

/-- CipherPortChangesOnlyAtOpenClearReset: the four ways. -/
theorem test_witness_port :
    (∃ t, step { withSession with agenda := [.host (.write 0x000 4 0x103)] } = .next t ∧
      t.cipherPort ≠ withSession.cipherPort) ∧
    (∃ t, step { selectingBad with cid := 0 } = .next t ∧ t.cipherPort ≠ selectingBad.cipherPort) ∧
    (∃ t, step clearing = .next t ∧ t.cipherPort ≠ clearing.cipherPort) ∧
    (∃ t, step { withSession with agenda := [.reset] } = .next t ∧ t.cipherPort ≠ withSession.cipherPort) :=
  ⟨⟨_, rfl, by decide⟩, ⟨_, rfl, by decide⟩, ⟨_, rfl, by decide⟩, ⟨_, rfl, by decide⟩⟩

/-- LoadBytesScriptFillsTheRegister: a length that needs padding, a whole register, no bytes. -/
theorem test_witness_ldb :
    Memory.wf idle.pw ∧ idle.busy = false ∧ (HostLine.ldb .mseed [1, 2, 3, 4, 5]).wellFormed = true ∧
    (HostLine.ldb .tseed ts.toList).wellFormed = true ∧ (HostLine.ldb .kfh []).wellFormed = true := by decide

/-- CodecRoundTrip, MisalignedCiphertextIsReported. -/
theorem test_witness_contract :
    (∃ p : CipherPort, p.valid = true ∧ p.dir = .encrypt) ∧
    (∃ s : State, s.sess.valid = true ∧ s.sess.dir = .decrypt ∧ s.err = false) ∧ ([0] : Bytes).length % 16 ≠ 0 :=
  ⟨⟨⟨true, 0, kf, ms, .encrypt, 16⟩, rfl, rfl⟩, ⟨{ withSession with err := false }, rfl, rfl, rfl⟩, by decide⟩

/-- WaitEndsWithTheFirstPollOfAnIdleBlock: a `WAIT` that ends with its first poll, and one that ends with its second. -/
theorem test_witness_wait :
    (∃ v p, idle.runScript [] [.wait] = some ([.value v], p)) ∧
    (∃ v p, clearing.runScript [[], [.sequencer]] [.wait] = some ([.value v], p) ∧ p.sched = []) :=
  ⟨⟨_, _, rfl⟩, _, _, rfl, rfl⟩

/-- WaitEndsExactlyWhenTheCommandCompletes: seven fair stretches for a `DERIVE` of two rounds; an open stream. -/
theorem test_witness_wait_fair :
    (MachineInv issued ∧ issued.busy = true ∧ issued.phase ≠ .kfStream ∧
      issued.internalWork ≤ (List.replicate 7 [Action.lane 1, .sequencer, .lane 0]).length ∧
      ∀ turns ∈ List.replicate 7 [Action.lane 1, .sequencer, .lane 0], fairRound turns) ∧
    (MachineInv streaming ∧ streaming.phase = .kfStream ∧
      ∀ turns ∈ [[Action.lane 1, .sequencer], []], ∀ a ∈ turns, a.internal = true) :=
  ⟨⟨issued_inv, rfl, by decide, by decide, test_witness_fair.2⟩, streaming_inv, rfl, by decide⟩

/-- CodecIoFailureIsReportedVerbatim: in either direction. -/
theorem test_witness_io_failure :
    withSession.sess.valid = true ∧ ({ withSession with sess := ⟨true, 0, kf, ms, .encrypt⟩ } : State).sess.valid = true :=
  ⟨rfl, rfl⟩

end Sys2Proof.Tests
end

/-! SUPPORT. A word written to the register of its format runs the instruction it decodes to (R90, R91, R72). -/

namespace Sys2Proof.Machine

/-- The map gives a word write at the offset of `CMD` to `CMD` (R21). -/
theorem busTarget_portOffset_cmd : busTarget (portOffset .cmd) 4 = some (.cmd, 0) :=
  busTarget_eq 0x000 (by decide)

/-- The map gives a word write at the offset of `KF_PUSH` to `KF_PUSH` (R21). -/
theorem busTarget_portOffset_kfPush : busTarget (portOffset .kfPush) 4 = some (.kfPush, 0) :=
  busTarget_eq 0x01C (by decide)

/-- R91: a legal word written to `CMD` runs its instruction. -/
theorem cmdPortWrite_of_decode {w : Word} {i : Instr} (h : decode .cmd w = .instr i) (s : State) :
    cmdPortWrite w s = exec i s := by
  simp only [cmdPortWrite, h]

/-- R72: a word that encodes an event, written to `KF_PUSH`, runs it. -/
theorem eventPortWrite_of_decode {w : Word} {i : Instr} (h : decode .kfPush w = .instr i) (s : State) :
    eventPortWrite w s = exec i s := by
  simp only [eventPortWrite, h]

/-- R90: the host write of a word to the port it decodes at is its instruction. -/
theorem hostAccess_portOffset_of_decode {p : Port} {w : Word} {i : Instr} (h : decode p w = .instr i) (s : State) :
    hostAccess (.write (portOffset p) 4 w) s = exec i s := by
  cases p with
  | cmd => simp only [hostAccess, busTarget_portOffset_cmd, cmdPortWrite_of_decode h]
  | kfPush => simp only [hostAccess, busTarget_portOffset_kfPush, eventPortWrite_of_decode h]

/-- A step whose next action is the host write of a decoding word is that word's instruction. -/
theorem step_portWrite_of_decode {s : State} {p : Port} {w : Word} {rest : List Action} {i : Instr}
    (ha : s.agenda = portWrite p w :: rest) (hd : decode p w = .instr i) :
    step s = exec i { s with agenda := rest } :=
  (step_cons ha).trans (hostAccess_portOffset_of_decode hd _)

/-- A table word is decoded at the port it is taken to be written to (log 6). -/
theorem decode_of_decodeTableWord {nbits w : Nat} {i : Instr} (h : decodeTableWord nbits w = some i) :
    decode (tablePort (tableWord nbits w)) (tableWord nbits w) = .instr i := by
  unfold decodeTableWord at h
  split at h
  · cases h
  · split at h
    · rename_i hd
      obtain rfl := Option.some.inj h
      exact hd
    · cases h

/-- Settles O6: the agenda's two cases are `step_cons` and `step_nil`; a decoding word, on the agenda or put there by
`withFetchWord`, runs by `step_portWrite_of_decode`. -/
theorem stepRunsTheDecodedInstruction : Obligations.StepRunsTheDecodedInstruction := by
  unfold Obligations.StepRunsTheDecodedInstruction
  refine ⟨fun s a rest ha => step_cons ha, fun s ha => step_nil ha, ?_, ?_⟩
  · intro s p w rest i ha hd
    exact step_portWrite_of_decode ha hd
  · intro s nbits w i hd
    exact step_portWrite_of_decode (s := s.withFetchWord nbits w) rfl (decode_of_decodeTableWord hd)

end Sys2Proof.Machine

section
/-! SUPPORT. The machine's invariant in two parts: the registers that outlive a command, and the hidden state, which is
dead while no command is in flight (R46). -/

namespace Sys2Proof.Machine

/-- What the invariant says of `PW`, the error record and the session latches, which outlive a command. -/
structure RegisterInv (s : State) : Prop where
  pwCanonical : Memory.wf s.pw
  pwInWindow : ∀ c ∈ s.pw, c.1 < Config.pwMax
  errClear : s.err = false → s.errcode = 0
  errRecorded : s.err = true → ∃ e info, s.errcode = errcodeWord e info
  sessClosed : s.sess.valid = false → s.sess = Session.closed
  sessMember : s.sess.member = 0

/-- No command is in flight and every hidden field is zero (R46). -/
structure Quiescent (s : State) : Prop where
  busy : s.busy = false
  op : s.op = .none
  phase : s.phase = .idle
  cKs : s.cKs = .derived
  cDir : s.cDir = .encrypt
  cClr : s.cClr = ⟨false, false, false⟩
  baseBuf : s.baseBuf = zero32
  laneCnt : s.laneCnt = Vector.replicate 2 0
  keyTmp : s.keyTmp = zero32
  kfAll : s.kfAll = []
  kfEnd : s.kfEnd = .none

theorem MachineInv.registerInv {s : State} (h : MachineInv s) : RegisterInv s := { h with }

/-- `IDLE` is the only phase without a command, and only then (R40). -/
theorem phase_eq_idle_of_legalPhase {ks : KeySource} {p : Phase} (h : legalPhase .none ks p = true) : p = .idle := by
  cases p <;> simp [legalPhase] at h ⊢

/-- The phase of an idle block. -/
theorem MachineInv.phase_of_op_none {s : State} (h : MachineInv s) (ho : s.op = .none) : s.phase = .idle :=
  phase_eq_idle_of_legalPhase (ho ▸ h.phaseLegal)

theorem MachineInv.quiescent {s : State} (h : MachineInv s) (hb : s.busy = false) : Quiescent s := by
  have ho : s.op = .none := by
    by_contra hne
    exact absurd (h.busyIffOp.2 hne) (by simp [hb])
  have hp : s.phase = .idle := h.phase_of_op_none ho
  obtain ⟨hks, hdir⟩ := h.openFields (by simp [ho])
  obtain ⟨hall, hend⟩ := h.streamOnlyKfread (by simp [ho])
  exact
    { busy := hb, op := ho, phase := hp, cKs := hks, cDir := hdir
      cClr := h.clearField (by simp [ho])
      baseBuf := h.baseBufZero (by simp [hp])
      laneCnt := h.laneCntZero (by simp [hp])
      keyTmp := h.keyTmpZero (by simp [hp]) (by simp [hp])
      kfAll := hall, kfEnd := hend }

@[simp] theorem getElem_laneCnt_replicate (w : Word) (j : LaneId) : (Vector.replicate 2 w)[j] = w := by
  simp only [Fin.getElem_fin, Vector.getElem_replicate]

/-- A lane owes nothing while no command is in flight (R43, R46). -/
theorem Quiescent.laneCnt_zero {s : State} (q : Quiescent s) (j : LaneId) : s.laneCnt[j] = 0 := by
  rw [q.laneCnt, getElem_laneCnt_replicate]

/-- The two parts make the invariant of an idle block. -/
theorem RegisterInv.machineInv {s : State} (h : RegisterInv s) (q : Quiescent s) : MachineInv s :=
  { h with
    busyIffOp := by simp [q.busy, q.op]
    phaseLegal := by simp [q.op, q.phase, legalPhase]
    busyNotDone := by simp [q.busy]
    openClosesSession := by simp [q.op]
    lengthsChecked := by simp [q.op]
    openFields := fun _ => ⟨q.cKs, q.cDir⟩
    clearField := fun _ => q.cClr
    baseBufZero := fun _ => q.baseBuf
    laneCntZero := fun _ => q.laneCnt
    laneCntBound := fun j => by simp [q.laneCnt_zero j]
    keyTmpZero := fun _ _ => q.keyTmp
    streamOnlyKfread := fun _ => ⟨q.kfAll, q.kfEnd⟩
    streamOpen := fun _ => q.kfEnd
    streamEnded := by simp [q.phase] }

/-- Both completions leave a dead block (R225, R46). -/
theorem quiescent_endCommand (s : State) : Quiescent s.endCommand := by constructor <;> rfl

theorem quiescent_succeed (s : State) : Quiescent s.succeed := { quiescent_endCommand s with }

theorem quiescent_fail (s : State) (e : ErrorCode) (info : Byte) : Quiescent (s.fail e info) :=
  { quiescent_endCommand (s.recordError e info) with }

/-- Recording an error keeps `ERR` and `ERRCODE` in agreement (R224, R33). -/
theorem RegisterInv.recordError {s : State} (h : RegisterInv s) (e : ErrorCode) (info : Byte) :
    RegisterInv (s.recordError e info) :=
  { h with
    errClear := by simp
    errRecorded := fun _ => by
      cases herr : s.err with
      | false => exact ⟨e, info, by simp [herr]⟩
      | true => simpa [herr] using h.errRecorded herr }

/-- Success completion of a block whose lasting registers are sound. -/
theorem RegisterInv.succeed {s : State} (h : RegisterInv s) : MachineInv s.succeed :=
  RegisterInv.machineInv { h with } (quiescent_succeed s)

/-- Error completion of a block whose lasting registers are sound. -/
theorem RegisterInv.fail {s : State} (h : RegisterInv s) (e : ErrorCode) (info : Byte) : MachineInv (s.fail e info) :=
  RegisterInv.machineInv { h.recordError e info with } (quiescent_fail s e info)

theorem quiescent_reset : Quiescent State.reset := by constructor <;> rfl

theorem registerInv_reset : RegisterInv State.reset where
  pwCanonical := Memory.wf_nil
  pwInWindow := nofun
  errClear := fun _ => rfl
  errRecorded := nofun
  sessClosed := fun _ => rfl
  sessMember := rfl

theorem machineInv_reset : MachineInv State.reset := registerInv_reset.machineInv quiescent_reset

/-- No derivation is in flight after reset. -/
theorem derivationInv_reset : DerivationInv State.reset where
  lanes := nofun
  joined := nofun
  resolved := nofun

end Sys2Proof.Machine
end

section
/-! SUPPORT. Every effect of `Effect` keeps the machine's invariant. -/

namespace Sys2Proof.Machine

theorem MachineInv.agenda {s : State} (h : MachineInv s) (l : List Action) : MachineInv { s with agenda := l } :=
  { h with }

theorem MachineInv.respond {s : State} (h : MachineInv s) (r : Response) : MachineInv (s.respond r) := { h with }

theorem MachineInv.recordError {s : State} (h : MachineInv s) (e : ErrorCode) (info : Byte) :
    MachineInv (s.recordError e info) :=
  { h with
    errClear := (h.registerInv.recordError e info).errClear
    errRecorded := (h.registerInv.recordError e info).errRecorded }

theorem MachineInv.accepted {s : State} (h : MachineInv s) : MachineInv s.accepted :=
  { h with busyNotDone := fun _ => rfl }

theorem MachineInv.closeSession {s : State} (h : MachineInv s) : MachineInv s.closeSession :=
  { h with
    sessClosed := fun _ => rfl
    sessMember := rfl
    openClosesSession := fun _ => rfl }

/-- Issue of a command with the fields and the initial phase that are its own (R96). -/
theorem MachineInv.issue {s : State} (h : MachineInv s) (hb : s.busy = false) (hd : s.done = false) {op : Op}
    {phase : Phase} {ks : KeySource} {dir : Direction} {clr : ClearMask} (hop : op ≠ .none)
    (hphase : legalPhase op ks phase = true) (hend : phase ≠ .kfFinish)
    (hsess : op = .openSession → s.sess.valid = false)
    (hlen : op = .derive ∨ (op = .openSession ∧ ks = .derived) → s.lengthsLegal = true)
    (hopen : op ≠ .openSession → ks = .derived ∧ dir = .encrypt) (hclr : op ≠ .clear → clr = ⟨false, false, false⟩) :
    MachineInv (s.issue op phase ks dir clr) :=
  have q := h.quiescent hb
  { h with
    busyIffOp := by simp [hop]
    phaseLegal := hphase
    busyNotDone := fun _ => hd
    openClosesSession := hsess
    lengthsChecked := hlen
    openFields := hopen
    clearField := hclr
    baseBufZero := fun _ => q.baseBuf
    laneCntZero := fun _ => q.laneCnt
    keyTmpZero := fun _ _ => q.keyTmp
    streamOnlyKfread := fun _ => ⟨q.kfAll, q.kfEnd⟩
    streamOpen := fun _ => q.kfEnd
    streamEnded := fun hp => absurd hp hend }

/-- Issue of `OPEN` (R173): an earlier session is closed; a supplied key waits in `KEYTMP` for the select step. -/
theorem MachineInv.openIssue {s : State} (h : MachineInv s) (hb : s.busy = false) (hd : s.done = false) (ks : KeySource)
    (dir : Direction) (hl : ks = .derived → s.lengthsLegal = true) : MachineInv (s.openIssue ks dir) := by
  cases ks with
  | derived =>
    exact h.closeSession.issue (phase := .base) hb hd (by simp) rfl (by simp) (fun _ => rfl) (fun _ => hl rfl) (by simp)
      (fun _ => rfl)
  | supplied =>
    have hi : MachineInv (s.closeSession.issue .openSession .select .supplied dir ⟨false, false, false⟩) :=
      h.closeSession.issue hb hd (by simp) rfl (by simp) (fun _ => rfl) (by simp) (by simp) (fun _ => rfl)
    exact { hi with keyTmpZero := fun _ hp => absurd rfl hp }

/-- Issue of `KFREAD` (R150), its stream empty. -/
theorem MachineInv.kfreadIssue {s : State} (h : MachineInv s) (hb : s.busy = false) (hd : s.done = false) :
    MachineInv { s.issue .kfread .kfStream .derived .encrypt ⟨false, false, false⟩ with kfAll := [], kfEnd := .none } :=
  have hi := h.issue (op := .kfread) (phase := .kfStream) (ks := .derived) (dir := .encrypt)
    (clr := ⟨false, false, false⟩) hb hd (by simp) rfl (by simp) (by simp) (by simp) (by simp) (by simp)
  { hi with
    streamOnlyKfread := fun _ => ⟨rfl, rfl⟩
    streamOpen := fun _ => rfl
    streamEnded := by simp }

/-- A stream byte arrives only in a `KFREAD` (R157). -/
theorem MachineInv.push {s : State} (h : MachineInv s) (ho : s.op = .kfread) (b : Byte) :
    MachineInv { s with bus := .ok, kfAll := s.kfAll ++ [b] } :=
  { h with streamOnlyKfread := fun hne => absurd ho hne }

/-- The end of a stream (R158, R159). -/
theorem MachineInv.endStream {s : State} (h : MachineInv s) (ho : s.op = .kfread) (hp : s.phase = .kfStream) {e : KfEnd}
    (he : e ≠ .none) : MachineInv { s with bus := .ok, kfEnd := e, phase := .kfFinish } :=
  { h with
    phaseLegal := by simp [ho, legalPhase]
    baseBufZero := fun _ => h.baseBufZero (by simp [hp])
    laneCntZero := fun _ => h.laneCntZero (by simp [hp])
    keyTmpZero := fun _ _ => h.keyTmpZero (by simp [hp]) (by simp [hp])
    streamOnlyKfread := fun hne => absurd ho hne
    streamOpen := by simp
    streamEnded := fun _ => he }

/-- A word write to a byte-array register changes the six byte arrays alone (R62, R64). -/
theorem writeWord_frame (s : State) (r : ByteReg) (i : Nat) (v : Word) :
    s.writeWord r i v =
      { s with
        mseed := (s.writeWord r i v).mseed, tseed := (s.writeWord r i v).tseed, kfh := (s.writeWord r i v).kfh
        ckey := (s.writeWord r i v).ckey, iv := (s.writeWord r i v).iv, pw := (s.writeWord r i v).pw } := by
  cases r <;> simp only [State.writeWord, State.writeByte]

/-- A word write inside the register lists no `PW` byte outside the window. -/
theorem writeWord_pw_inWindow {s : State} (hm : ∀ c ∈ s.pw, c.1 < Config.pwMax) {r : ByteReg} {i : Nat}
    (hi : i + 3 < r.size) (v : Word) : ∀ c ∈ (s.writeWord r i v).pw, c.1 < Config.pwMax := by
  have h0 := writeByte_pw_inWindow s hm r i (by omega) (byteOfWord v 0)
  have h1 := writeByte_pw_inWindow _ h0 r (i + 1) (by omega) (byteOfWord v 1)
  have h2 := writeByte_pw_inWindow _ h1 r (i + 2) (by omega) (byteOfWord v 2)
  exact writeByte_pw_inWindow _ h2 r (i + 3) hi (byteOfWord v 3)

/-- The four bytes of a word that the map accepts all lie inside the register (R65, R66). -/
theorem busTarget_array_inside {off size : Nat} {a : ByteReg} {i : Nat} (h : busTarget off size = some (.array a, i)) :
    i + 3 < a.size := by
  obtain ⟨-, hal, hoff, hi⟩ := busTarget_some h
  have hs := a.size_mod_four
  have ho : (Reg.array a).offset % 4 = 0 := by cases a <;> rfl
  simp only [Reg.size] at hi
  omega

/-- Of the byte-array registers the invariant speaks of `PW` alone. -/
theorem MachineInv.arrays {s : State} (h : MachineInv s) (mseed : Bytes16) (tseed kfh ckey : Bytes32) (iv : Bytes16)
    {pw : Memory} (hwf : Memory.wf pw) (hwin : ∀ c ∈ pw, c.1 < Config.pwMax) :
    MachineInv { s with mseed := mseed, tseed := tseed, kfh := kfh, ckey := ckey, iv := iv, pw := pw } :=
  { h with pwCanonical := hwf, pwInWindow := hwin }

theorem MachineInv.writeWord {s : State} (h : MachineInv s) {r : ByteReg} {i : Nat} (hi : i + 3 < r.size) (v : Word) :
    MachineInv (s.writeWord r i v) := by
  rw [writeWord_frame]
  exact h.arrays _ _ _ _ _ (writeWord_pw_wf s h.pwCanonical r i v) (writeWord_pw_inWindow h.pwInWindow hi v)

/-- `ERR` is cleared only together with `ERRCODE` (R193, R33). -/
theorem MachineInv.acknowledge {s : State} (h : MachineInv s) (v : Word) : MachineInv (s.acknowledge v) :=
  { h with
    busyNotDone := fun hb => by simp [h.busyNotDone hb]
    errClear := by
      cases hv : bit v 2 with
      | false => simpa [hv] using h.errClear
      | true => simp [hv]
    errRecorded := by
      cases hv : bit v 2 with
      | false => simpa [hv] using h.errRecorded
      | true => simp [hv] }

/-- An accepted host write inside its register, at an idle block. -/
theorem MachineInv.writeReg {s t : State} (h : MachineInv s) (hb : s.busy = false) {off size : Nat} {v : Word} {r : Reg}
    {i : Nat} (ht : busTarget off size = some (r, i)) (hw : s.writeReg r i v = some t) : MachineInv t := by
  have q := h.quiescent hb
  cases r <;> simp only [State.writeReg, reduceCtorEq, Option.some.injEq] at hw <;> subst hw
  case status => exact h.acknowledge v
  case irqEn => exact { h with }
  case rounds => exact { h with laneCntBound := fun j => by simp [State.writeRounds, q.laneCnt_zero j] }
  case kmLen => exact { h with lengthsChecked := by simp [State.writeKmLen, q.op] }
  case cipherId => exact { h with }
  case array a => exact h.writeWord (busTarget_array_inside ht) v

/-! ## The sequencer and the lanes -/

/-- The iteration stage follows the base step (R40, R130). -/
theorem legalPhase_stretch {op : Op} {ks : KeySource} (h : legalPhase op ks .base = true) :
    legalPhase op ks .stretch = true := by
  cases op <;> cases ks <;> simp [legalPhase] at h ⊢

/-- The final step follows the iteration stage (R40, R133). -/
theorem legalPhase_final {op : Op} {ks : KeySource} (h : legalPhase op ks .stretch = true) :
    legalPhase op ks .final = true := by
  cases op <;> cases ks <;> simp [legalPhase] at h ⊢

theorem MachineInv.baseForkStep {s : State} (h : MachineInv s) (hp : s.phase = .base) : MachineInv s.baseForkStep :=
  { h with
    phaseLegal := legalPhase_stretch (hp ▸ h.phaseLegal)
    baseBufZero := fun hne => absurd rfl hne
    laneCntZero := fun hne => absurd rfl hne
    laneCntBound := fun j => by simp only [State.baseForkStep, getElem_laneCnt_replicate, le_refl]
    keyTmpZero := fun _ _ => h.keyTmpZero (by simp [hp]) (by simp [hp])
    streamOpen := nofun
    streamEnded := nofun }

/-- Two finished lanes are two zero counters (R132). -/
theorem laneCnt_eq_zero {cnt : Vector Word 2} (h0 : cnt[0] = 0) (h1 : cnt[1] = 0) : cnt = Vector.replicate 2 0 := by
  apply Vector.ext
  intro i hi
  match i, hi with
  | 0, _ => exact h0
  | 1, _ => exact h1

theorem MachineInv.joinStep {s : State} (h : MachineInv s) (hp : s.phase = .stretch) (h0 : s.laneCnt[0] = 0)
    (h1 : s.laneCnt[1] = 0) : MachineInv s.joinStep :=
  { h with
    phaseLegal := legalPhase_final (hp ▸ h.phaseLegal)
    baseBufZero := fun _ => rfl
    laneCntZero := fun _ => laneCnt_eq_zero h0 h1
    keyTmpZero := fun hne => absurd rfl hne
    streamOpen := nofun
    streamEnded := nofun }

/-- The final step of `DERIVE` commits the key and completes (R134). -/
theorem finalStep_derive {s : State} (ho : s.op = .derive) : s.finalStep = { s with ckey := s.keyTmp }.succeed :=
  if_pos ho

/-- The final step of `OPEN` goes on to its select step (R134). -/
theorem finalStep_openSession {s : State} (ho : s.op = .openSession) : s.finalStep = { s with phase := .select } :=
  if_neg (by simp [ho])

/-- The two commands that share the derivation (R130). -/
theorem derives_cases {op : Op} (h : op.derives = true) : op = .derive ∨ op = .openSession := by
  cases op <;> simp [Op.derives] at h ⊢

theorem MachineInv.finalStep {s : State} (h : MachineInv s) (hp : s.phase = .final) (ho : s.op.derives = true) :
    MachineInv s.finalStep := by
  rcases derives_cases ho with ho | ho
  · rw [finalStep_derive ho]
    exact RegisterInv.succeed { h.registerInv with }
  · rw [finalStep_openSession ho]
    exact
      { h with
        phaseLegal := by simp [ho, legalPhase]
        baseBufZero := fun _ => h.baseBufZero (by simp [hp])
        laneCntZero := fun _ => h.laneCntZero (by simp [hp])
        keyTmpZero := fun _ hne => absurd rfl hne
        streamOpen := nofun
        streamEnded := nofun }

/-- What the select step does when the identifier is recognised: the session opens with member 0 (R172, R174). -/
theorem selectStep_recognised {s : State} (h : Config.cidRecognised s.cid = true) :
    s.selectStep = { s.commitDerivedKey with sess := ⟨true, 0, s.keyTmp, s.iv, s.cDir⟩ }.succeed := by
  unfold State.selectStep select
  rw [if_pos h]
  rfl

/-- What the select step does otherwise (R175). -/
theorem selectStep_unrecognised {s : State} (h : Config.cidRecognised s.cid = false) :
    s.selectStep = s.commitDerivedKey.fail .unsupported s.cid := by
  unfold State.selectStep select
  rw [if_neg (by simp [h])]

/-- A derived key is committed to `CKEY` (R174). -/
theorem commitDerivedKey_derived {s : State} (hk : s.cKs = .derived) : s.commitDerivedKey = { s with ckey := s.keyTmp } := by
  simp only [State.commitDerivedKey, hk]

/-- A supplied key is in `CKEY` already (R174). -/
theorem commitDerivedKey_supplied {s : State} (hk : s.cKs = .supplied) : s.commitDerivedKey = s := by
  simp only [State.commitDerivedKey, hk]

theorem RegisterInv.commitDerivedKey {s : State} (h : RegisterInv s) : RegisterInv s.commitDerivedKey := by
  cases hk : s.cKs with
  | derived => rw [commitDerivedKey_derived hk]; exact { h with }
  | supplied => rwa [commitDerivedKey_supplied hk]

theorem MachineInv.selectStep {s : State} (h : MachineInv s) : MachineInv s.selectStep := by
  have hc := h.registerInv.commitDerivedKey
  cases hr : Config.cidRecognised s.cid with
  | true =>
    rw [selectStep_recognised hr]
    exact RegisterInv.succeed { hc with sessClosed := nofun, sessMember := rfl }
  | false =>
    rw [selectStep_unrecognised hr]
    exact hc.fail _ _

theorem kfFinishStep_ok {s : State} {h : Bytes32} (hn : normalize Config.primitives s.kfAll s.kfEnd = .ok h) :
    s.kfFinishStep = { s with kfh := h, kfLen := 32 }.succeed := by
  simp only [State.kfFinishStep, hn]

theorem kfFinishStep_error {s : State} {c : Byte} (hn : normalize Config.primitives s.kfAll s.kfEnd = .error c) :
    s.kfFinishStep = s.fail .io c := by
  simp only [State.kfFinishStep, hn]

theorem MachineInv.kfFinishStep {s : State} (h : MachineInv s) : MachineInv s.kfFinishStep := by
  cases hn : normalize Config.primitives s.kfAll s.kfEnd with
  | ok k =>
    rw [kfFinishStep_ok hn]
    exact RegisterInv.succeed { h.registerInv with }
  | error c =>
    rw [kfFinishStep_error hn]
    exact h.registerInv.fail _ _

/-- Discarding keeps what holds of the lasting registers: each is kept or zeroed whole (R190). -/
theorem RegisterInv.discard {s : State} (h : RegisterInv s) (m : ClearMask) : RegisterInv (s.discard m) := by
  obtain ⟨km, ckey, sess⟩ := m
  have hpw : Memory.wf (if km then [] else s.pw) ∧ ∀ c ∈ (if km then [] else s.pw), c.1 < Config.pwMax := by
    cases km with
    | true => exact ⟨Memory.wf_nil, nofun⟩
    | false => exact ⟨h.pwCanonical, h.pwInWindow⟩
  have hsess : ((if sess then Session.closed else s.sess).valid = false →
      (if sess then Session.closed else s.sess) = Session.closed) ∧
      (if sess then Session.closed else s.sess).member = 0 := by
    cases sess with
    | true => exact ⟨fun _ => rfl, rfl⟩
    | false => exact ⟨h.sessClosed, h.sessMember⟩
  exact
    { h with
      pwCanonical := hpw.1, pwInWindow := hpw.2
      sessClosed := hsess.1, sessMember := hsess.2 }

theorem MachineInv.clearStep {s : State} (h : MachineInv s) : MachineInv s.clearStep :=
  (h.registerInv.discard s.cClr).succeed

theorem MachineInv.sequencerStep {s t : State} (h : MachineInv s) (hs : s.sequencerStep = some t) : MachineInv t := by
  rcases sequencerStep_cases hs with ⟨hp, -, rfl⟩ | ⟨hp, -, h0, h1, rfl⟩ | ⟨hp, ho, rfl⟩ | ⟨-, -, rfl⟩ | ⟨-, -, rfl⟩ |
    ⟨-, -, rfl⟩
  · exact h.baseForkStep hp
  · exact h.joinStep hp h0 h1
  · exact h.finalStep hp ho
  · exact h.selectStep
  · exact h.kfFinishStep
  · exact h.clearStep

/-- In the iteration stage the lanes may move as long as none owes more than `ROUNDS` (R131, R136). -/
theorem MachineInv.lanes {s : State} (h : MachineInv s) (hp : s.phase = .stretch) (buf : Bytes32) {cnt : Vector Word 2}
    (hcnt : ∀ j : LaneId, cnt[j].toNat ≤ s.rounds.toNat) : MachineInv { s with baseBuf := buf, laneCnt := cnt } :=
  { h with
    baseBufZero := fun hne => absurd hp hne
    laneCntZero := fun hne => absurd hp hne
    laneCntBound := hcnt }

theorem MachineInv.laneStep {s t : State} (h : MachineInv s) {j : LaneId} (hs : s.laneStep j = some t) :
    MachineInv t := by
  obtain ⟨hp, hc, rfl⟩ := laneStep_cases hs
  rw [laneEncStep_frame]
  refine h.lanes hp _ fun k => ?_
  have hk := h.laneCntBound k
  by_cases hkj : k = j
  · subst hkj
    have := laneCnt_laneEncStep_toNat s k hc
    omega
  · rwa [laneCnt_laneEncStep_other s j k hkj]

/-- Every action keeps the invariant. -/
theorem Effect.machineInv {s t : State} {a : Action} (he : Effect s a t) (h : MachineInv s) : MachineInv t := by
  cases he with
  | responded _ r => exact h.respond r
  | rejected _ e info _ => exact h.accepted.recordError e info
  | derive _ hb hl =>
    exact h.accepted.issue hb rfl (by simp) rfl (by simp) (by simp) (fun _ => hl) (by simp) (by simp)
  | kfread _ hb => exact h.accepted.kfreadIssue hb rfl
  | openSession _ ks dir hb hl => exact h.accepted.openIssue hb rfl ks dir hl
  | clear _ km ckey sess hb =>
    exact h.accepted.issue hb rfl (by simp) rfl (by simp) (by simp) (by simp) (by simp) (by simp)
  | pushed _ b ho _ => exact h.push ho b
  | ended _ e he ho hp => exact h.endStream ho hp he
  | wrote off size v r i u hb ht hw => exact (h.writeReg hb ht hw).respond .ok
  | sequenced _ hs => exact h.sequencerStep hs
  | laned j _ hs => exact h.laneStep hs
  | passed _ _ => exact h
  | codec e info _ => exact h.recordError e.toErrorCode info
  | reset => exact machineInv_reset.agenda s.agenda

/-- One step of any agent keeps the invariant. -/
theorem MachineInv.step {s t : State} (h : MachineInv s) (hs : step s = .next t) : MachineInv t := by
  rcases step_effect hs with ⟨a, rest, -, he⟩ | ⟨-, a, -, he⟩
  · exact he.machineInv (h.agenda rest)
  · exact he.machineInv h

end Sys2Proof.Machine
end

section
/-! The statements about the invariants and about reset. -/

namespace Sys2Proof.Machine

/-- Settles O47: each effect of a step keeps the invariant (`Effect.machineInv`). -/
theorem stepKeepsTheInvariants : Obligations.StepKeepsTheInvariants := by
  unfold Obligations.StepKeepsTheInvariants
  exact fun _ _ h hs => h.step hs

/-- Settles O49: an idle block is `Quiescent`, and the state after a command's end meets the invariant again (O47). -/
theorem hiddenStateIsDeadOutsideACommand : Obligations.HiddenStateIsDeadOutsideACommand := by
  unfold Obligations.HiddenStateIsDeadOutsideACommand
  constructor
  · intro s h hb
    have q := h.quiescent hb
    exact ⟨q.op, q.phase, q.baseBuf, q.laneCnt_zero, q.keyTmp, q.kfAll, q.kfEnd, q.cKs, q.cDir, q.cClr⟩
  · intro s t h hs _ hb
    have q := (h.step hs).quiescent hb
    exact ⟨q.baseBuf, q.keyTmp, q.kfAll, q.kfEnd, q.cKs, q.cDir, q.cClr, q.laneCnt_zero⟩

/-- Settles O46: after reset the block is quiescent and no derivation is in flight. -/
theorem resetMeetsTheInvariants : Obligations.ResetMeetsTheInvariants := by
  unfold Obligations.ResetMeetsTheInvariants
  exact ⟨machineInv_reset, derivationInv_reset⟩

end Sys2Proof.Machine
end

section
/-! SUPPORT. Which step writes which register: what an accepted host write leaves alone, and what the steps of the
sequencer leave alone. -/

namespace Sys2Proof.Machine

/-- Every step is an effect at the state itself but for its agenda; an action of the outside world stood first on it. -/
theorem step_effect_at {s t : State} (h : step s = .next t) :
    ∃ a l, Effect { s with agenda := l } a t ∧ (a.internal = false → s.agenda = a :: l) := by
  rcases step_effect h with ⟨a, rest, ha, he⟩ | ⟨ha, a, hint, he⟩
  · exact ⟨a, rest, he, fun _ => ha⟩
  · refine ⟨a, s.agenda, he, fun hext => ?_⟩
    rcases hint with rfl | ⟨j, rfl⟩ <;> cases hext

/-- From `s` to `t` of the registers that a host write can change only `r` has changed, and no command was issued or
session touched. -/
structure OnlyWrites (r : Reg) (s t : State) : Prop where
  pw : t.pw ≠ s.pw → r = .array .pw
  pwLen : t.pwLen ≠ s.pwLen → r = .kmLen
  kfLen : t.kfLen ≠ s.kfLen → r = .kmLen
  kfh : t.kfh ≠ s.kfh → r = .array .kfh
  mseed : t.mseed ≠ s.mseed → r = .array .mseed
  tseed : t.tseed ≠ s.tseed → r = .array .tseed
  rounds : t.rounds ≠ s.rounds → r = .rounds
  ckey : t.ckey ≠ s.ckey → r = .array .ckey
  iv : t.iv ≠ s.iv → r = .array .iv
  cid : t.cid ≠ s.cid → r = .cipherId
  irqEn : t.doneIe ≠ s.doneIe ∨ t.errIe ≠ s.errIe → r = .irqEn
  busy : t.busy = s.busy
  sess : t.sess = s.sess

/-- A word write to a byte-array register changes that register alone (R64). -/
theorem writeWord_onlyWrites (s : State) (r : ByteReg) (i : Nat) (v : Word) :
    OnlyWrites (.array r) s (s.writeWord r i v) := by
  cases r <;> constructor <;> simp [State.writeWord, State.writeByte]

/-- An accepted host write changes, of these registers, the one it names alone (R64). -/
theorem writeReg_onlyWrites {s t : State} {r : Reg} {i : Nat} {v : Word} (hw : s.writeReg r i v = some t) :
    OnlyWrites r s t := by
  cases r <;> simp only [State.writeReg, reduceCtorEq, Option.some.injEq] at hw <;> subst hw
  case status => constructor <;> simp
  case irqEn => constructor <;> simp [State.writeIrqEn]
  case rounds => constructor <;> simp [State.writeRounds]
  case kmLen => constructor <;> simp [State.writeKmLen]
  case cipherId => constructor <;> simp [State.writeCipherId]
  case array a => exact writeWord_onlyWrites s a i v

/-- The action is a host word write inside register `r`, accepted at an idle block. -/
structure HostWrite (r : Reg) (s : State) (a : Action) (t : State) : Prop where
  inside : ∃ off v, a = .host (.write off 4 v) ∧ r.offset ≤ off ∧ off < r.offset + r.size
  busy : s.busy = false
  bus : t.bus = .ok
  only : OnlyWrites r s t

/-- The step's host write in the words of the statements: inside the window of the register that changed. -/
theorem HostWrite.hostWrote {s t : State} {r q : Reg} {a : Action} {l : List Action}
    (h : HostWrite r { s with agenda := l } a t) (ha : a.internal = false → s.agenda = a :: l) (hr : r = q) :
    hostWrote s t q.offset (q.offset + q.size) := by
  subst hr
  obtain ⟨⟨off, v, rfl, hlo, hhi⟩, hb, hbus, ho⟩ := h
  exact ⟨off, v, l, ha rfl, hlo, hhi, hb, ho.busy.trans hb, hbus⟩

/-- The parameters keep their values (R25 to R27, R29, R30, R34). -/
structure KeepsParameters (s t : State) : Prop where
  mseed : t.mseed = s.mseed
  tseed : t.tseed = s.tseed
  rounds : t.rounds = s.rounds
  iv : t.iv = s.iv
  cid : t.cid = s.cid
  doneIe : t.doneIe = s.doneIe
  errIe : t.errIe = s.errIe

/-- The key material keeps its value (R22 to R24). -/
structure KeepsKeyMaterial (s t : State) : Prop where
  pw : t.pw = s.pw
  pwLen : t.pwLen = s.pwLen
  kfLen : t.kfLen = s.kfLen
  kfh : t.kfh = s.kfh

/-- The key material and `CKEY` keep their values (R22 to R24, R28). -/
structure KeepsKeys (s t : State) : Prop extends KeepsKeyMaterial s t where
  ckey : t.ckey = s.ckey

/-- The issue of `OPEN` writes neither a parameter nor a key (R173). -/
theorem openIssue_keeps (s : State) (ks : KeySource) (dir : Direction) :
    KeepsParameters s (s.openIssue ks dir) ∧ KeepsKeys s (s.openIssue ks dir) := by
  cases ks <;> exact ⟨by constructor <;> rfl, ⟨by constructor <;> rfl, rfl⟩⟩

/-- Who can write a register: reset, the host inside the register, the sequencer; every other effect leaves the
parameters and the keys alone. -/
theorem Effect.writer {s t : State} {a : Action} (he : Effect s a t) :
    a = .reset ∨ (∃ r, HostWrite r s a t) ∨ s.sequencerStep = some t ∨ (KeepsParameters s t ∧ KeepsKeys s t) := by
  cases he with
  | wrote off size v r i u hb ht hw =>
    obtain ⟨rfl, -, hoff, hi⟩ := busTarget_some ht
    have ho := writeReg_onlyWrites hw
    exact .inr (.inl ⟨r, ⟨off, v, rfl, by omega, by omega⟩, hb, rfl, { ho with }⟩)
  | sequenced _ hs => exact .inr (.inr (.inl hs))
  | reset => exact .inl rfl
  | openSession _ ks dir _ _ =>
    obtain ⟨hp, hk⟩ := openIssue_keeps s.accepted ks dir
    exact .inr (.inr (.inr ⟨{ hp with }, { hk with }⟩))
  | laned j _ hs =>
    obtain ⟨-, -, rfl⟩ := laneStep_cases hs
    rw [laneEncStep_frame]
    exact .inr (.inr (.inr ⟨by constructor <;> rfl, ⟨by constructor <;> rfl, rfl⟩⟩))
  | responded | rejected | derive | kfread | clear | pushed | ended | passed | codec =>
    exact .inr (.inr (.inr ⟨by constructor <;> rfl, ⟨by constructor <;> rfl, rfl⟩⟩))

/-! ## What the steps of the sequencer write -/

/-- The final step writes neither a parameter nor key material (R134). -/
theorem finalStep_keeps (s : State) : KeepsParameters s s.finalStep ∧ KeepsKeyMaterial s s.finalStep := by
  unfold State.finalStep
  split <;> exact ⟨by constructor <;> rfl, by constructor <;> rfl⟩

/-- The select step writes neither a parameter nor key material (R174). -/
theorem selectStep_keeps (s : State) : KeepsParameters s s.selectStep ∧ KeepsKeyMaterial s s.selectStep := by
  unfold State.selectStep State.commitDerivedKey
  cases s.cKs <;> cases select s.cid s.keyTmp <;> exact ⟨by constructor <;> rfl, by constructor <;> rfl⟩

/-- The finish step writes no parameter (R160). -/
theorem kfFinishStep_keepsParameters (s : State) : KeepsParameters s s.kfFinishStep := by
  unfold State.kfFinishStep
  split <;> constructor <;> rfl

/-- The sequencer writes no parameter (R25 to R27, R29, R30, R34). -/
theorem sequencerStep_keepsParameters {s t : State} (hs : s.sequencerStep = some t) : KeepsParameters s t := by
  rcases sequencerStep_cases hs with ⟨-, -, rfl⟩ | ⟨-, -, -, -, rfl⟩ | ⟨-, -, rfl⟩ | ⟨-, -, rfl⟩ | ⟨-, -, rfl⟩ |
    ⟨-, -, rfl⟩
  · constructor <;> rfl
  · constructor <;> rfl
  · exact (finalStep_keeps s).1
  · exact (selectStep_keeps s).1
  · exact kfFinishStep_keepsParameters s
  · constructor <;> rfl

/-- The step is the clear step of a `CLEAR km`, which zeroes the key material (R190). -/
structure ZeroesKeyMaterial (s t : State) : Prop where
  cleared : clearedKm s t
  pw : t.pw = []
  pwLen : t.pwLen = 0
  kfLen : t.kfLen = 0
  kfh : t.kfh = zero32

/-- The step is a finish step that stores the hash `h` and leaves the password alone (R160). -/
structure StoresHash (h : Bytes32) (s t : State) : Prop where
  stored : storedHash s t h
  pw : t.pw = s.pw
  pwLen : t.pwLen = s.pwLen
  kfLen : t.kfLen = 32
  kfh : t.kfh = h

/-- The clear step zeroes the key material when the `km` bit asks for it, and else leaves it (R190). -/
theorem clearStep_keyMaterial {s : State} (ho : s.op = .clear) (hp : s.phase = .clear) :
    KeepsKeyMaterial s s.clearStep ∨ ZeroesKeyMaterial s s.clearStep := by
  cases hkm : s.cClr.km with
  | false => exact .inl (by constructor <;> simp [State.clearStep, State.discard, hkm])
  | true =>
    have hc : clearedKm s s.clearStep := ⟨ho, hp, hkm, rfl, rfl⟩
    refine .inr ⟨hc, ?_, ?_, ?_, ?_⟩ <;> simp [State.clearStep, State.discard, hkm]

/-- The finish step stores the normalized hash, or leaves the key material (R160). -/
theorem kfFinishStep_keyMaterial {s : State} (ho : s.op = .kfread) (hp : s.phase = .kfFinish) :
    KeepsKeyMaterial s s.kfFinishStep ∨ ∃ h, StoresHash h s s.kfFinishStep := by
  cases hn : normalize Config.primitives s.kfAll s.kfEnd with
  | ok h =>
    rw [kfFinishStep_ok hn]
    exact .inr ⟨h, ⟨ho, hp, hn, rfl, rfl⟩, rfl, rfl, rfl, rfl⟩
  | error c =>
    rw [kfFinishStep_error hn]
    exact .inl (by constructor <;> rfl)

/-- The two steps of the sequencer that write key material (R160, R192). -/
theorem sequencerStep_keyMaterial {s t : State} (hs : s.sequencerStep = some t) :
    KeepsKeyMaterial s t ∨ ZeroesKeyMaterial s t ∨ ∃ h, StoresHash h s t := by
  rcases sequencerStep_cases hs with ⟨-, -, rfl⟩ | ⟨-, -, -, -, rfl⟩ | ⟨-, -, rfl⟩ | ⟨-, -, rfl⟩ | ⟨hp, ho, rfl⟩ |
    ⟨hp, ho, rfl⟩
  · exact .inl (by constructor <;> rfl)
  · exact .inl (by constructor <;> rfl)
  · exact .inl (finalStep_keeps s).2
  · exact .inl (selectStep_keeps s).2
  · exact (kfFinishStep_keyMaterial ho hp).imp_right .inr
  · exact (clearStep_keyMaterial ho hp).imp_right .inl

/-- The select step ends the command (R174, R175). -/
theorem selectStep_busy (s : State) : s.selectStep.busy = false := by
  unfold State.selectStep
  split <;> rfl

/-- The select step commits a derived key, whatever the identifier, and leaves `CKEY` otherwise (R174). -/
theorem selectStep_ckey (s : State) : s.selectStep.ckey = s.commitDerivedKey.ckey := by
  unfold State.selectStep
  split <;> rfl

/-- The three steps of the sequencer that write `CKEY`, with the value each leaves (R28). -/
theorem sequencerStep_ckey {s t : State} (hs : s.sequencerStep = some t) (hne : t.ckey ≠ s.ckey) :
    (s.op = .derive ∧ s.phase = .final ∧ t.ckey = s.keyTmp ∧ t.busy = false ∧ t.done = true) ∨
    (s.op = .openSession ∧ s.phase = .select ∧ s.cKs = .derived ∧ t.ckey = s.keyTmp ∧ t.busy = false) ∨
    (s.op = .clear ∧ s.phase = .clear ∧ s.cClr.ckey = true ∧ t.ckey = zero32 ∧ t.busy = false) := by
  rcases sequencerStep_cases hs with ⟨-, -, rfl⟩ | ⟨-, -, -, -, rfl⟩ | ⟨hp, ho, rfl⟩ | ⟨hp, ho, rfl⟩ | ⟨-, -, rfl⟩ |
    ⟨hp, ho, rfl⟩
  · exact absurd rfl hne
  · exact absurd rfl hne
  · rcases derives_cases ho with ho | ho
    · rw [finalStep_derive ho]
      exact .inl ⟨ho, hp, rfl, rfl, rfl⟩
    · rw [finalStep_openSession ho] at hne
      exact absurd rfl hne
  · rw [selectStep_ckey] at hne ⊢
    cases hk : s.cKs with
    | derived =>
      rw [commitDerivedKey_derived hk]
      exact .inr (.inl ⟨ho, hp, rfl, rfl, selectStep_busy s⟩)
    | supplied =>
      rw [commitDerivedKey_supplied hk] at hne
      exact absurd rfl hne
  · refine absurd ?_ hne
    unfold State.kfFinishStep
    split <;> rfl
  · cases hc : s.cClr.ckey with
    | false => exact absurd (by simp [State.clearStep, State.discard, hc]) hne
    | true => exact .inr (.inr ⟨ho, hp, rfl, by simp [State.clearStep, State.discard, hc], rfl⟩)

/-- The two steps of the sequencer that write the session latches (R36). -/
theorem sequencerStep_sess {s t : State} (hs : s.sequencerStep = some t) (hne : t.sess ≠ s.sess) :
    (s.op = .openSession ∧ s.phase = .select ∧ t.sess = ⟨true, 0, s.keyTmp, s.iv, s.cDir⟩ ∧ t.done = true) ∨
    (s.op = .clear ∧ s.phase = .clear ∧ s.cClr.sess = true ∧ t.sess = Session.closed) := by
  rcases sequencerStep_cases hs with ⟨-, -, rfl⟩ | ⟨-, -, -, -, rfl⟩ | ⟨-, -, rfl⟩ | ⟨hp, ho, rfl⟩ | ⟨-, -, rfl⟩ |
    ⟨hp, ho, rfl⟩
  · exact absurd rfl hne
  · exact absurd rfl hne
  · refine absurd ?_ hne
    unfold State.finalStep
    split <;> rfl
  · cases hr : Config.cidRecognised s.cid with
    | true =>
      rw [selectStep_recognised hr]
      exact .inl ⟨ho, hp, rfl, rfl⟩
    | false =>
      rw [selectStep_unrecognised hr] at hne
      refine absurd ?_ hne
      unfold State.commitDerivedKey
      split <;> rfl
  · refine absurd ?_ hne
    unfold State.kfFinishStep
    split <;> rfl
  · cases hc : s.cClr.sess with
    | false => exact absurd (by simp [State.clearStep, State.discard, hc]) hne
    | true => exact .inr ⟨ho, hp, rfl, by simp [State.clearStep, State.discard, hc]⟩

/-! ## Who writes what, over every effect -/

/-- A parameter is written by reset, by the host inside a register, or not at all. -/
theorem Effect.parameterWriter {s t : State} {a : Action} (he : Effect s a t) :
    a = .reset ∨ (∃ r, HostWrite r s a t) ∨ KeepsParameters s t := by
  rcases he.writer with ha | hw | hs | ⟨hp, -⟩
  · exact .inl ha
  · exact .inr (.inl hw)
  · exact .inr (.inr (sequencerStep_keepsParameters hs))
  · exact .inr (.inr hp)

/-- Key material is written by reset, by the host inside a register, by `CLEAR km`, by a finish step, or not at all. -/
theorem Effect.keyMaterialWriter {s t : State} {a : Action} (he : Effect s a t) :
    a = .reset ∨ (∃ r, HostWrite r s a t) ∨ KeepsKeyMaterial s t ∨ ZeroesKeyMaterial s t ∨ ∃ h, StoresHash h s t := by
  rcases he.writer with ha | hw | hs | ⟨-, hk⟩
  · exact .inl ha
  · exact .inr (.inl hw)
  · exact .inr (.inr (sequencerStep_keyMaterial hs))
  · exact .inr (.inr (.inl hk.toKeepsKeyMaterial))

@[simp] theorem laneEncStep_sess (s : State) (j : LaneId) : (s.laneEncStep j).sess = s.sess := by
  simp only [State.laneEncStep]

/-- The session latches are written by reset, by the issue of `OPEN`, or by the sequencer (R36). -/
theorem Effect.sessWriter {s t : State} {a : Action} (he : Effect s a t) (hne : t.sess ≠ s.sess) :
    a = .reset ∨ (s.busy = false ∧ t.op = .openSession ∧ t.sess = Session.closed) ∨ s.sequencerStep = some t := by
  cases he with
  | openSession _ ks dir hb _ => cases ks <;> exact .inr (.inl ⟨hb, rfl, rfl⟩)
  | wrote _ _ _ _ _ _ _ _ hw => exact absurd (writeReg_onlyWrites hw).sess hne
  | sequenced _ hs => exact .inr (.inr hs)
  | laned j _ hs =>
    obtain ⟨-, -, rfl⟩ := laneStep_cases hs
    exact absurd (laneEncStep_sess s j) hne
  | reset => exact .inl rfl
  | responded | rejected | derive | kfread | clear | pushed | ended | passed | codec => exact absurd rfl hne

/-- The cipher port presents the session latches and a constant (R76). -/
theorem cipherPort_eq {s t : State} (h : t.sess = s.sess) : t.cipherPort = s.cipherPort := by
  simp only [State.cipherPort, h]

end Sys2Proof.Machine
end

section
/-! The statements about which step writes which register. -/

namespace Sys2Proof.Machine

/-- Settles O50: the writer of a parameter is reset or the host (`Effect.parameterWriter`), and a host write changes
only the register it lies in. -/
theorem parametersAreWrittenOnlyByTheHost : Obligations.ParametersAreWrittenOnlyByTheHost := by
  unfold Obligations.ParametersAreWrittenOnlyByTheHost
  intro s t hs
  obtain ⟨a, l, he, ha⟩ := step_effect_at hs
  rcases he.parameterWriter with rfl | ⟨r, hw⟩ | hk
  · have hr : s.resetsNext := ⟨l, ha rfl⟩
    exact ⟨fun _ => .inl hr, fun _ => .inl hr, fun _ => .inl hr, fun _ => .inl hr, fun _ => .inl hr, fun _ => .inl hr⟩
  · exact ⟨fun h => .inr (hw.hostWrote ha (hw.only.mseed h)), fun h => .inr (hw.hostWrote ha (hw.only.tseed h)),
      fun h => .inr (hw.hostWrote ha (hw.only.rounds h)), fun h => .inr (hw.hostWrote ha (hw.only.iv h)),
      fun h => .inr (hw.hostWrote ha (hw.only.cid h)), fun h => .inr (hw.hostWrote ha (hw.only.irqEn h))⟩
  · exact ⟨fun h => absurd hk.mseed h, fun h => absurd hk.tseed h, fun h => absurd hk.rounds h,
      fun h => absurd hk.iv h, fun h => absurd hk.cid h,
      fun h => h.elim (fun h => absurd hk.doneIe h) fun h => absurd hk.errIe h⟩

/-- Settles O51: a writer of `CKEY` is reset, the host inside its window, or one of the three steps of
`sequencerStep_ckey`. -/
theorem ckeyHasExactlyFiveWriters : Obligations.CkeyHasExactlyFiveWriters := by
  unfold Obligations.CkeyHasExactlyFiveWriters
  intro s t hs hne
  obtain ⟨a, l, he, ha⟩ := step_effect_at hs
  rcases he.writer with rfl | ⟨r, hw⟩ | hseq | ⟨-, hk⟩
  · exact .inl ⟨l, ha rfl⟩
  · obtain ⟨off, v, rest, hag, hlo, hhi, hb, -, -⟩ := hw.hostWrote ha (hw.only.ckey hne)
    exact .inr (.inl ⟨off, v, rest, hag, hlo, hhi, hb⟩)
  · exact .inr (.inr (sequencerStep_ckey (s := { s with agenda := l }) hseq hne))
  · exact absurd hk.ckey hne

/-- Settles O52: the port presents the session latches, which change only as `Effect.sessWriter` and
`sequencerStep_sess` say. -/
theorem cipherPortChangesOnlyAtOpenClearReset : Obligations.CipherPortChangesOnlyAtOpenClearReset := by
  unfold Obligations.CipherPortChangesOnlyAtOpenClearReset
  intro s t hs hport
  have hne : t.sess ≠ s.sess := fun h => hport (cipherPort_eq h)
  obtain ⟨a, l, he, ha⟩ := step_effect_at hs
  rcases he.sessWriter hne with rfl | hopen | hseq
  · exact .inl ⟨l, ha rfl⟩
  · exact .inr (.inl hopen)
  · exact .inr (.inr (sequencerStep_sess (s := { s with agenda := l }) hseq hne))

/-- Settles O56: the writers of `Effect.keyMaterialWriter`, register by register. -/
theorem keyMaterialHasOnlyItsWriters : Obligations.KeyMaterialHasOnlyItsWriters := by
  unfold Obligations.KeyMaterialHasOnlyItsWriters
  intro s t hs
  obtain ⟨a, l, he, ha⟩ := step_effect_at hs
  rcases he.keyMaterialWriter with rfl | ⟨r, hw⟩ | hk | hz | ⟨h, hh⟩
  · have hr : s.resetsNext := ⟨l, ha rfl⟩
    exact ⟨fun _ => .inl hr, fun _ => .inl hr, fun _ => .inl hr, fun _ => .inl hr⟩
  · exact ⟨fun hne => .inr (.inl (hw.hostWrote ha (hw.only.pw hne))),
      fun hne => .inr (.inl (hw.hostWrote ha (hw.only.pwLen hne))),
      fun hne => .inr (.inl (hw.hostWrote ha (hw.only.kfLen hne))),
      fun hne => .inr (.inl (hw.hostWrote ha (hw.only.kfh hne)))⟩
  · exact ⟨fun hne => absurd hk.pw hne, fun hne => absurd hk.pwLen hne, fun hne => absurd hk.kfLen hne,
      fun hne => absurd hk.kfh hne⟩
  · have hread : ∀ i, t.readByte .pw i = 0 := fun i => by simp [State.readByte, hz.pw, Memory.unlisted]
    exact ⟨fun _ => .inr (.inr ⟨hz.cleared, hread⟩), fun _ => .inr (.inr ⟨hz.cleared, hz.pwLen⟩),
      fun _ => .inr (.inr (.inl ⟨hz.cleared, hz.kfLen⟩)), fun _ => .inr (.inr (.inl ⟨hz.cleared, hz.kfh⟩))⟩
  · exact ⟨fun hne => absurd hh.pw hne, fun hne => absurd hh.pwLen hne,
      fun _ => .inr (.inr (.inr ⟨h, hh.stored, hh.kfLen⟩)), fun _ => .inr (.inr (.inr ⟨h, hh.stored, hh.kfh⟩))⟩

end Sys2Proof.Machine
end

section
/-! SUPPORT. The control words as numbers (R23, R30, R32, R34) and the operands of a derivation (R120, R121). -/

namespace Sys2Proof.Machine

/-- `STATUS` as a number: no field reaches bit 12, so nothing is cut off (R32). -/
theorem statusWord_toNat (s : State) :
    s.statusWord.toNat =
      s.busy.toNat + 2 * s.done.toNat + 4 * s.err.toNat + 8 * s.sess.valid.toNat + 256 * s.sess.member.toNat := by
  have hm := s.sess.member.isLt
  have hb := s.busy.toNat_lt
  have hd := s.done.toNat_lt
  have he := s.err.toNat_lt
  have hv := s.sess.valid.toNat_lt
  rw [State.statusWord, BitVec.toNat_ofNat, Nat.mod_eq_of_lt (by omega)]

/-- `KM_LEN` as a number (R23). -/
theorem kmLenWord_toNat (s : State) : s.kmLenWord.toNat = s.pwLen.toNat + 65536 * s.kfLen.toNat := by
  have hp := s.pwLen.isLt
  have hk := s.kfLen.isLt
  rw [State.kmLenWord, BitVec.toNat_ofNat, Nat.mod_eq_of_lt (by omega)]

/-- `CIPHER_ID` as a number (R30). -/
theorem cipherIdWord_toNat (s : State) : s.cipherIdWord.toNat = s.cid.toNat := by
  have hc := s.cid.isLt
  rw [State.cipherIdWord, BitVec.toNat_ofNat, Nat.mod_eq_of_lt (by omega)]

/-- `IRQ_EN` as a number (R34). -/
theorem irqEnWord_toNat (s : State) : s.irqEnWord.toNat = 2 * s.doneIe.toNat + 4 * s.errIe.toNat := by
  have hd := s.doneIe.toNat_lt
  have he := s.errIe.toNat_lt
  rw [State.irqEnWord, BitVec.toNat_ofNat, Nat.mod_eq_of_lt (by omega)]

/-- The fields of `STATUS` (R32). -/
theorem statusWord_fields (s : State) :
    field s.statusWord 0 0 = s.busy.toNat ∧ field s.statusWord 1 1 = s.done.toNat ∧
    field s.statusWord 2 2 = s.err.toNat ∧ field s.statusWord 3 3 = s.sess.valid.toNat ∧
    field s.statusWord 7 4 = 0 ∧ field s.statusWord 11 8 = s.sess.member.toNat ∧ field s.statusWord 31 12 = 0 := by
  have hm := s.sess.member.isLt
  have hb := s.busy.toNat_lt
  have hd := s.done.toNat_lt
  have he := s.err.toNat_lt
  have hv := s.sess.valid.toNat_lt
  simp only [field, statusWord_toNat]
  omega

/-- The fields of `KM_LEN` (R23). -/
theorem kmLenWord_fields (s : State) :
    field s.kmLenWord 15 0 = s.pwLen.toNat ∧ field s.kmLenWord 23 16 = s.kfLen.toNat ∧ field s.kmLenWord 31 24 = 0 := by
  have hp := s.pwLen.isLt
  have hk := s.kfLen.isLt
  simp only [field, kmLenWord_toNat]
  omega

/-- The fields of `CIPHER_ID` (R30). -/
theorem cipherIdWord_fields (s : State) :
    field s.cipherIdWord 7 0 = s.cid.toNat ∧ field s.cipherIdWord 31 8 = 0 := by
  have hc := s.cid.isLt
  simp only [field, cipherIdWord_toNat]
  omega

/-- The fields of `IRQ_EN` (R34). -/
theorem irqEnWord_fields (s : State) :
    field s.irqEnWord 0 0 = 0 ∧ field s.irqEnWord 1 1 = s.doneIe.toNat ∧ field s.irqEnWord 2 2 = s.errIe.toNat ∧
    field s.irqEnWord 31 3 = 0 := by
  have hd := s.doneIe.toNat_lt
  have he := s.errIe.toNat_lt
  simp only [field, irqEnWord_toNat]
  omega

/-- Only the bytes below `PW_LEN` are read (R22). -/
theorem password_congr {s t : State} (hlen : t.pwLen = s.pwLen)
    (hpw : ∀ i, i < s.pwLen.toNat → Memory.read t.pw i = Memory.read s.pw i) : t.password = s.password := by
  unfold State.password
  rw [hlen]
  exact List.map_congr_left fun i hi => hpw i (List.mem_range.1 hi)

/-- With `KF_LEN = 0` the key-file hash is absent (R24, R121). -/
theorem keyFile_of_kfLen_zero {s : State} (h : s.kfLen = 0) : s.keyFile = none :=
  if_pos (by simp [h])

/-- The derived key depends on the two operands and three parameters alone (R120, R127). -/
theorem derivedKey_of_operands {s t : State} (hpw : t.password = s.password) (hkf : t.keyFile = s.keyFile)
    (hms : t.mseed = s.mseed) (hts : t.tseed = s.tseed) (hn : t.rounds = s.rounds) : t.derivedKey = s.derivedKey := by
  unfold State.derivedKey
  rw [hpw, hkf, hms, hts, hn]

/-- Every byte of every byte-array register reads 0 after reset (R48). -/
theorem readByte_reset (r : ByteReg) (i : Nat) : State.reset.readByte r i = 0 := by
  have hz : ∀ n : Nat, (Vector.replicate n (0 : Byte))[i]?.getD 0 = 0 := fun n => by
    rw [Vector.getElem?_replicate]
    split <;> rfl
  cases r with
  | pw => rfl
  | mseed | iv => exact hz 16
  | tseed | kfh | ckey => exact hz 32

end Sys2Proof.Machine
end

section
/-! The statements about the control words, the operands of a derivation, and reset. -/

namespace Sys2Proof.Machine

/-- Settles O14, one control word at a time. -/
theorem controlWordsReadTheirFields : Obligations.ControlWordsReadTheirFields := by
  unfold Obligations.ControlWordsReadTheirFields
  exact fun s => ⟨statusWord_fields s, kmLenWord_fields s, cipherIdWord_fields s, irqEnWord_fields s⟩

/-- Settles O28: the password operand stops at `PW_LEN`, and there is no key-file operand when `KF_LEN = 0`. -/
theorem derivationIgnoresWhatTheLengthsExclude : Obligations.DerivationIgnoresWhatTheLengthsExclude := by
  unfold Obligations.DerivationIgnoresWhatTheLengthsExclude
  constructor
  · intro s m hm
    exact derivedKey_of_operands (password_congr rfl hm) rfl rfl rfl rfl
  · intro s h hkf
    have habsent : ({ s with kfh := h } : State).keyFile = s.keyFile := by
      rw [keyFile_of_kfLen_zero hkf, keyFile_of_kfLen_zero (s := { s with kfh := h }) hkf]
    exact derivedKey_of_operands rfl habsent rfl rfl rfl

/-- Settles O8: every field of the state after reset is its reset value; the agenda stays. -/
theorem resetClearsEveryBit : Obligations.ResetClearsEveryBit := by
  unfold Obligations.ResetClearsEveryBit
  intro s
  refine ⟨s.resetEvent, rfl, readByte_reset, ?_⟩
  have hlanes : ∀ j : LaneId, s.resetEvent.laneCnt[j] = 0 := fun j => quiescent_reset.laneCnt_zero j
  refine ⟨rfl, rfl, rfl, rfl, rfl, rfl, rfl, rfl, rfl, rfl, rfl, rfl, rfl, rfl, rfl, rfl, rfl, rfl, rfl, rfl, rfl, rfl,
    rfl, rfl, rfl, rfl, rfl, rfl, rfl, rfl, hlanes, rfl, rfl, rfl, rfl⟩

end Sys2Proof.Machine
end

section
/-! SUPPORT. What a host access does, case by case of the map and of the access rights (R63 to R69), as equations. -/

namespace Sys2Proof.Machine

/-! ## Which register an access reaches (R21, R65, R66) -/

/-- The width and alignment rule refuses before the map is looked at (R65). -/
theorem busTarget_misaligned {off size : Nat} (h : size ≠ 4 ∨ off % 4 ≠ 0) : busTarget off size = none :=
  if_pos h

/-- The registers' windows fill three ranges of offsets, the gaps of R66 between them. -/
theorem Reg.window_mapped {r : Reg} {off : Nat} (hlo : r.offset ≤ off) (hhi : off < r.offset + r.size) :
    off < 0x030 ∨ (0x040 ≤ off ∧ off < 0x0B0) ∨ (0x100 ≤ off ∧ off < 0x100 + Config.pwMax) := by
  cases r with
  | array a => cases a <;> simp only [Reg.offset, Reg.size, ByteReg.size] at hlo hhi <;> omega
  | _ => simp only [Reg.offset, Reg.size] at hlo hhi; omega

/-- No access reaches a register in a gap of the map (R66). -/
theorem busTarget_unmapped {off : Nat} (size : Nat)
    (h : (0x030 ≤ off ∧ off ≤ 0x03F) ∨ (0x0B0 ≤ off ∧ off ≤ 0x0FF) ∨ 0x100 + Config.pwMax ≤ off) :
    busTarget off size = none := by
  cases ht : busTarget off size with
  | none => rfl
  | some x =>
    obtain ⟨-, -, hoff, hi⟩ := busTarget_some ht
    have hw := Reg.window_mapped (r := x.1) (off := off) (by omega) (by omega)
    omega

/-- A byte-array register holds at least one word (R21). -/
theorem ByteReg.four_le_size (r : ByteReg) : 4 ≤ r.size := by
  cases r with
  | pw => exact Config.four_le_pwMax
  | mseed | tseed | kfh | ckey | iv => simp only [ByteReg.size]; omega

/-- A word access at a register's offset reaches its first byte (R21). -/
theorem busTarget_offset (r : Reg) : busTarget r.offset 4 = some (r, 0) := by
  cases r with
  | array a => exact busTarget_array a 0 a.four_le_size
  | _ => exact busTarget_eq _ (by decide)

/-- The only access that reaches a one-word register is the one at its offset (R65). -/
theorem eq_offset_of_busTarget {off size i : Nat} {r : Reg} (h : busTarget off size = some (r, i)) (hr : r.size = 4) :
    off = r.offset := by
  obtain ⟨-, hal, hoff, hi⟩ := busTarget_some h
  have ho : r.offset % 4 = 0 := by
    cases r with
    | array a => cases a <;> rfl
    | _ => rfl
  omega

/-! ## Reads -/

/-- A read of a register that can be read answers `OK` with its value (R63). -/
theorem hostAccess_read_value {s : State} {off size i : Nat} {r : Reg} {v : Word}
    (ht : busTarget off size = some (r, i)) (hv : s.readReg r i = some v) :
    hostAccess (.read off size) s = .next { s with bus := .okData v } := by
  simp only [hostAccess, State.busRead, ht, hv, State.respond]

/-- A read of a write-only register is refused (R67). -/
theorem hostAccess_read_writeOnly {s : State} {off size i : Nat} {r : Reg} (ht : busTarget off size = some (r, i))
    (hv : s.readReg r i = none) : hostAccess (.read off size) s = .next { s with bus := .error } := by
  simp only [hostAccess, State.busRead, ht, hv, State.respond]

/-- A read that reaches no register is refused (R65, R66). -/
theorem hostAccess_read_untargeted {off size : Nat} (ht : busTarget off size = none) (s : State) :
    hostAccess (.read off size) s = .next { s with bus := .error } := by
  simp only [hostAccess, State.busRead, ht, State.respond]

/-! ## Writes -/

/-- A write that reaches no register is refused (R65, R66). -/
theorem hostAccess_write_untargeted {off size : Nat} (ht : busTarget off size = none) (s : State) (v : Word) :
    hostAccess (.write off size v) s = .next { s with bus := .error } := by
  simp only [hostAccess, ht, State.respond]

/-- A write that reaches neither `CMD` nor `KF_PUSH` is a register write (R64). -/
theorem hostAccess_write_register {off size i : Nat} {r : Reg} (ht : busTarget off size = some (r, i))
    (hc : r ≠ .cmd) (hk : r ≠ .kfPush) (s : State) (v : Word) :
    hostAccess (.write off size v) s = .next (s.registerWrite r i v) := by
  cases r with
  | cmd => exact absurd rfl hc
  | kfPush => exact absurd rfl hk
  | _ => simp only [hostAccess, ht]

/-- A register write is refused while a command is in flight (R68). -/
theorem registerWrite_busy {s : State} (hb : s.busy = true) (r : Reg) (i : Nat) (v : Word) :
    s.registerWrite r i v = s.respond .error :=
  if_pos hb

/-- A write of a read-only register is refused, busy or not (R67). -/
theorem registerWrite_readOnly {s : State} {r : Reg} {i : Nat} {v : Word} (hw : s.writeReg r i v = none) :
    s.registerWrite r i v = s.respond .error := by
  simp only [State.registerWrite, hw, ite_self]

/-- A write of a register that can be written, at an idle block (R64). -/
theorem registerWrite_accepted {s t : State} {r : Reg} {i : Nat} {v : Word} (hb : s.busy = false)
    (hw : s.writeReg r i v = some t) : s.registerWrite r i v = t.respond .ok := by
  simp only [State.registerWrite, hb, hw, Bool.false_eq_true, if_false]

/-- An accepted write of a register that is written: its effect, answered `OK` (R64). -/
theorem hostAccess_write_accepted {s t : State} {off size i : Nat} {r : Reg} {v : Word}
    (ht : busTarget off size = some (r, i)) (hb : s.busy = false) (hw : s.writeReg r i v = some t) :
    hostAccess (.write off size v) s = .next (t.respond .ok) := by
  have hc : r ≠ .cmd := by rintro rfl; cases hw
  have hk : r ≠ .kfPush := by rintro rfl; cases hw
  rw [hostAccess_write_register ht hc hk, registerWrite_accepted hb hw]

/-! ## The two ports -/

/-- A word written to `CMD` decodes to a command, one written to `KF_PUSH` to a stream event (R90). -/
theorem port_of_decode {p : Port} {w : Word} {i : Instr} (h : decode p w = .instr i) : i.port = p := by
  cases p with
  | cmd =>
    simp only [decode, decodeCmd] at h
    split_ifs at h <;> cases h <;> rfl
  | kfPush =>
    simp only [decode, decodeEvent] at h
    split_ifs at h <;> cases h <;> rfl

/-- Every command is refused while one is in flight (R68). -/
theorem exec_command_busy {i : Instr} {s : State} (hi : i.port = .cmd) (hb : s.busy = true) :
    exec i s = .next (s.respond .error) := by
  cases i with
  | push | eos | srcerr => cases hi
  | derive | kfread | openSession | clear => exact if_pos hb

/-- A stream event is accepted when a `KFREAD` awaits it (R72). -/
theorem exec_event_accepted {i : Instr} {s : State} (hi : i.port = .kfPush)
    (hs : s.op = .kfread ∧ s.phase = .kfStream) : ∃ t, exec i s = .next t ∧ t.bus = .ok := by
  cases i with
  | push | eos | srcerr => exact ⟨_, if_pos hs, rfl⟩
  | derive | kfread | openSession | clear => cases hi

/-- A stream event is refused when no `KFREAD` awaits it (R72). -/
theorem exec_event_refused {i : Instr} {s : State} (hi : i.port = .kfPush)
    (hs : ¬ (s.op = .kfread ∧ s.phase = .kfStream)) : exec i s = .next (s.respond .error) := by
  cases i with
  | push | eos | srcerr => exact if_neg hs
  | derive | kfread | openSession | clear => cases hi

/-- `CMD` is refused while a command is in flight, whatever the word (R68). -/
theorem cmdPortWrite_busy {s : State} (hb : s.busy = true) (v : Word) :
    cmdPortWrite v s = .next (s.respond .error) := by
  unfold cmdPortWrite
  split
  · rename_i i hd
    exact exec_command_busy (port_of_decode hd) hb
  · exact if_pos hb
  · rfl

/-- A word that encodes no event, written to `KF_PUSH`, is refused (R101). -/
theorem eventPortWrite_of_noInstr {w : Word} (h : ¬ ∃ i, decode .kfPush w = .instr i) (s : State) :
    eventPortWrite w s = .next (s.respond .error) := by
  unfold eventPortWrite
  split
  · rename_i i hd
    exact absurd ⟨i, hd⟩ h
  · rfl

/-- A word write at the offset of `KF_PUSH` goes to the event port (R72). -/
theorem hostAccess_write_kfPush (s : State) (w : Word) : hostAccess (.write 0x01C 4 w) s = eventPortWrite w s := by
  have ht : busTarget 0x01C 4 = some (.kfPush, 0) := busTarget_offset .kfPush
  simp only [hostAccess, ht]

/-! ## Refusals -/

/-- A host access answers `OK`, or it changes nothing but the response. -/
theorem Effect.ok_or_responded {s t : State} {a : Access} (he : Effect s (.host a) t) :
    t.bus = .ok ∨ ∃ r, t = s.respond r := by
  cases he with
  | responded _ r => exact .inr ⟨r, rfl⟩
  | openSession _ ks _ _ _ => cases ks <;> exact .inl rfl
  | rejected | derive | kfread | clear | pushed | ended | wrote => exact .inl rfl
  | passed _ h => rcases h with ⟨h, -⟩ | ⟨_, h, -⟩ <;> cases h

/-- A host access that is refused changes nothing but the response (R69). -/
theorem Effect.refused {s t : State} {a : Access} (he : Effect s (.host a) t) (ht : t.bus = .error) :
    t = s.respond .error := by
  rcases he.ok_or_responded with hok | ⟨r, rfl⟩
  · exact absurd (hok.symm.trans ht) (by decide)
  · exact congrArg s.respond ht

/-- A write is refused while a command is in flight, at every offset but that of `KF_PUSH` (R68). -/
theorem hostAccess_write_busy {s : State} {off : Nat} (hb : s.busy = true) (hoff : off ≠ 0x01C) (size : Nat)
    (v : Word) : hostAccess (.write off size v) s = .next { s with bus := .error } := by
  cases ht : busTarget off size with
  | none => exact hostAccess_write_untargeted ht s v
  | some x =>
    obtain ⟨r, i⟩ := x
    by_cases hk : r = .kfPush
    · subst hk
      exact absurd (eq_offset_of_busTarget ht rfl) hoff
    by_cases hc : r = .cmd
    · subst hc
      have hcmd : hostAccess (.write off size v) s = cmdPortWrite v s := by simp only [hostAccess, ht]
      exact hcmd.trans (cmdPortWrite_busy hb v)
    · rw [hostAccess_write_register ht hc hk, registerWrite_busy hb]
      rfl

/-- `STATUS` alone shows `BUSY` (R32, R68). -/
theorem readReg_busy {r : Reg} (hr : r ≠ .status) (s : State) (i : Nat) (b : Bool) :
    ({ s with busy := b } : State).readReg r i = s.readReg r i := by
  cases r with
  | status => exact absurd rfl hr
  | array a => cases a <;> rfl
  | _ => rfl

/-- What a read answers does not depend on `BUSY`, `STATUS` aside (R68). -/
theorem busRead_busy {off : Nat} (hoff : off ≠ 0x004) (s : State) (size : Nat) (b : Bool) :
    ({ s with busy := b } : State).busRead off size = s.busRead off size := by
  unfold State.busRead
  split
  · rfl
  · rename_i r i ht
    have hr : r ≠ .status := by
      rintro rfl
      exact hoff (eq_offset_of_busTarget ht rfl)
    rw [readReg_busy hr]

end Sys2Proof.Machine
end

section
/-! SUPPORT. The bytes of a word (R13, R62) and a word written to a byte-array register, byte by byte (R64). -/

namespace Sys2Proof

/-- A field as wide as its bits loses nothing. -/
theorem toNat_ofNat_field (w : Word) (hi lo : Nat) :
    (BitVec.ofNat (hi + 1 - lo) (field w hi lo)).toNat = field w hi lo := by
  rw [BitVec.toNat_ofNat]
  exact Nat.mod_mod _ _

/-- The low byte is bits 7:0 (R92, R100). -/
theorem lowByte_toNat (w : Word) : (lowByte w).toNat = field w 7 0 :=
  toNat_ofNat_field w 7 0

namespace Machine

/-- The fields of a packed word are its bytes (R62). -/
theorem le32_fields (b0 b1 b2 b3 : Byte) :
    field (le32 b0 b1 b2 b3) 7 0 = b0.toNat ∧ field (le32 b0 b1 b2 b3) 15 8 = b1.toNat ∧
    field (le32 b0 b1 b2 b3) 23 16 = b2.toNat ∧ field (le32 b0 b1 b2 b3) 31 24 = b3.toNat := by
  have h0 := b0.isLt
  have h1 := b1.isLt
  have h2 := b2.isLt
  have h3 := b3.isLt
  simp only [field, le32, BitVec.toNat_ofNat]
  omega

/-- The four bytes of a word just written read back (R64). -/
theorem readByte_writeWord_same {s : State} (hm : Memory.wf s.pw) {r : ByteReg} {i : Nat} (hi : i + 3 < r.size)
    (v : Word) :
    (s.writeWord r i v).readByte r i = byteOfWord v 0 ∧
    (s.writeWord r i v).readByte r (i + 1) = byteOfWord v 1 ∧
    (s.writeWord r i v).readByte r (i + 2) = byteOfWord v 2 ∧
    (s.writeWord r i v).readByte r (i + 3) = byteOfWord v 3 := by
  have h1 := writeByte_pw_wf s hm r i (byteOfWord v 0)
  have h2 := writeByte_pw_wf _ h1 r (i + 1) (byteOfWord v 1)
  have h3 := writeByte_pw_wf _ h2 r (i + 2) (byteOfWord v 2)
  unfold State.writeWord
  refine ⟨?_, ?_, ?_, readByte_writeByte_same _ h3 r _ hi _⟩
  · rw [readByte_writeByte_other _ _ _ _ _ _ (by omega), readByte_writeByte_other _ _ _ _ _ _ (by omega),
      readByte_writeByte_other _ _ _ _ _ _ (by omega), readByte_writeByte_same _ hm r _ (by omega)]
  · rw [readByte_writeByte_other _ _ _ _ _ _ (by omega), readByte_writeByte_other _ _ _ _ _ _ (by omega),
      readByte_writeByte_same _ h1 r _ (by omega)]
  · rw [readByte_writeByte_other _ _ _ _ _ _ (by omega), readByte_writeByte_same _ h2 r _ (by omega)]

/-- Every other byte of every byte-array register is unchanged by a word write (R64). -/
theorem readByte_writeWord_other (s : State) {r q : ByteReg} {i j : Nat} (v : Word)
    (h : ¬ (q = r ∧ i ≤ j ∧ j < i + 4)) : (s.writeWord r i v).readByte q j = s.readByte q j := by
  have hne : ∀ k < 4, ¬ (q = r ∧ j = i + k) := fun k hk ⟨hq, hj⟩ => h ⟨hq, by omega⟩
  unfold State.writeWord
  rw [readByte_writeByte_other _ _ _ _ _ _ (hne 3 (by omega)), readByte_writeByte_other _ _ _ _ _ _ (hne 2 (by omega)),
    readByte_writeByte_other _ _ _ _ _ _ (hne 1 (by omega))]
  exact readByte_writeByte_other _ _ _ _ _ _ (hne 0 (by omega))

/-- A word just written reads back (R63, R64). -/
theorem readWord_writeWord_same {s : State} (hm : Memory.wf s.pw) {r : ByteReg} {i : Nat} (hi : i + 3 < r.size)
    (v : Word) : (s.writeWord r i v).readWord r i = v := by
  obtain ⟨h0, h1, h2, h3⟩ := readByte_writeWord_same hm hi v
  rw [State.readWord, h0, h1, h2, h3, le32_byteOfWord]

/-- A recorded error has no bit above its information byte (R33, R221). -/
theorem errcodeWord_reserved (e : ErrorCode) (info : Byte) : field (errcodeWord e info) 31 16 = 0 := by
  have hi := info.isLt
  have hc := e.code.isLt
  simp only [field, errcodeWord, BitVec.toNat_ofNat]
  omega

/-- The reserved bits of `ERRCODE` read 0 (R33). -/
theorem MachineInv.errcode_reserved {s : State} (h : MachineInv s) : field s.errcode 31 16 = 0 := by
  cases he : s.err with
  | false => rw [h.errClear he]; rfl
  | true =>
    obtain ⟨e, info, hw⟩ := h.errRecorded he
    rw [hw, errcodeWord_reserved]

end Machine
end Sys2Proof
end

section
/-! SUPPORT. What a step of a busy block that stays busy cannot write (R68), and the decoder of stream events row by row
(R101). -/

namespace Sys2Proof.Machine

/-- Reset leaves an idle block (R250). -/
theorem Effect.busy_of_reset {s t : State} (he : Effect s .reset t) : t.busy = false := by
  cases he with
  | reset => rfl
  | passed _ h => rcases h with ⟨h, -⟩ | ⟨_, h, -⟩ <;> cases h

/-- A step of the sequencer that writes a key or key material ends its command. -/
theorem sequencerStep_keepsKeys {s t : State} (hs : s.sequencerStep = some t) (hb : t.busy = true) : KeepsKeys s t := by
  have hend : t.busy ≠ false := by simp [hb]
  have hck : t.ckey = s.ckey := by
    by_contra hne
    rcases sequencerStep_ckey hs hne with ⟨-, -, -, h, -⟩ | ⟨-, -, -, -, h⟩ | ⟨-, -, -, -, h⟩ <;> exact hend h
  rcases sequencerStep_keyMaterial hs with hk | hz | ⟨h, hh⟩
  · exact { hk with ckey := hck }
  · obtain ⟨-, -, -, h, -⟩ := hz.cleared
    exact absurd h hend
  · obtain ⟨-, -, -, h, -⟩ := hh.stored
    exact absurd h hend

/-- Between its issue and its completion a command's inputs, `CKEY` and `KFH` keep their values (R68). -/
theorem Effect.keepsInputs {s t : State} {a : Action} (he : Effect s a t) (hs : s.busy = true) (ht : t.busy = true) :
    KeepsParameters s t ∧ KeepsKeys s t := by
  rcases he.writer with rfl | ⟨r, hw⟩ | hseq | hk
  · exact absurd he.busy_of_reset (by simp [ht])
  · exact absurd hw.busy (by simp [hs])
  · exact ⟨sequencerStep_keepsParameters hseq, sequencerStep_keepsKeys hseq ht⟩
  · exact hk

/-- The words that encode no event (R101). -/
theorem decode_kfPush_noEvent_iff (w : Word) :
    decode .kfPush w = .noEvent ↔
      field w 9 8 = 3 ∨ field w 31 10 ≠ 0 ∨ (field w 9 8 = 1 ∧ field w 7 0 ≠ 0) := by
  have hkind : field w 9 8 < 4 := Nat.mod_lt _ (by decide)
  simp only [decode, decodeEvent]
  split_ifs <;> simp only [true_iff, false_iff] <;> omega

/-- `KIND = PUSH` (R101). -/
theorem decode_kfPush_push {w : Word} (hr : field w 31 10 = 0) (hk : field w 9 8 = 0) :
    decode .kfPush w = .instr (.push (lowByte w)) := by
  simp [decode, decodeEvent, hr, hk]

/-- `KIND = EOS` with `DATA = 0` (R101). -/
theorem decode_kfPush_eos {w : Word} (hr : field w 31 10 = 0) (hk : field w 9 8 = 1) (hd : field w 7 0 = 0) :
    decode .kfPush w = .instr .eos := by
  simp [decode, decodeEvent, hr, hk, hd]

/-- `KIND = SRCERR` (R101). -/
theorem decode_kfPush_srcerr {w : Word} (hr : field w 31 10 = 0) (hk : field w 9 8 = 2) :
    decode .kfPush w = .instr (.srcerr (lowByte w)) := by
  simp [decode, decodeEvent, hr, hk]

end Sys2Proof.Machine
end

section
/-! The statements about host accesses. -/

namespace Sys2Proof.Machine

/-- Settles O9: a refused access only responds (`Effect.refused`), and `IRQ` does not show the response. -/
theorem busErrorChangesNothing : Obligations.BusErrorChangesNothing := by
  unfold Obligations.BusErrorChangesNothing
  intro a s t h hbus
  obtain rfl := (hostAccess_effect h).refused hbus
  exact ⟨rfl, rfl⟩

/-- Settles O11: no register's window meets the three ranges. -/
theorem unmappedOffsetIsRefused : Obligations.UnmappedOffsetIsRefused := by
  unfold Obligations.UnmappedOffsetIsRefused
  intro s off size v h
  have ht := busTarget_unmapped size h
  exact ⟨hostAccess_read_untargeted ht s, hostAccess_write_untargeted ht s v⟩

/-- Settles O13: a read responds and no more; what it responds is the register's value where the map and the access
rights let it through. -/
theorem readsReturnRegistersAndChangeNothing : Obligations.ReadsReturnRegistersAndChangeNothing := by
  unfold Obligations.ReadsReturnRegistersAndChangeNothing
  refine ⟨fun _ _ _ => ⟨_, rfl⟩, fun s => ?_, fun s r k hk => ?_, fun s off size h => ?_, fun s => ?_⟩
  · exact ⟨hostAccess_read_value (busTarget_offset .status) rfl, hostAccess_read_value (busTarget_offset .errcode) rfl,
      hostAccess_read_value (busTarget_offset .irqEn) rfl, hostAccess_read_value (busTarget_offset .rounds) rfl,
      hostAccess_read_value (busTarget_offset .kmLen) rfl, hostAccess_read_value (busTarget_offset .cipherId) rfl⟩
  · exact ⟨_, hostAccess_read_value (busTarget_array r k hk) rfl, le32_fields _ _ _ _⟩
  · by_cases hword : size ≠ 4 ∨ off % 4 ≠ 0
    · exact hostAccess_read_untargeted (busTarget_misaligned hword) s
    obtain rfl : size = 4 := by omega
    rcases h with h | h | rfl | rfl | hgap
    · exact absurd (.inl h) hword
    · exact absurd (.inr h) hword
    · exact hostAccess_read_writeOnly (busTarget_offset .cmd) rfl
    · exact hostAccess_read_writeOnly (busTarget_offset .kfPush) rfl
    · exact hostAccess_read_untargeted (busTarget_unmapped 4 hgap) s
  · obtain ⟨-, -, -, -, hst, -, hst'⟩ := statusWord_fields s
    obtain ⟨hirq, -, -, hirq'⟩ := irqEnWord_fields s
    obtain ⟨-, -, hkm⟩ := kmLenWord_fields s
    obtain ⟨-, hcid⟩ := cipherIdWord_fields s
    exact ⟨hst, hst', hirq, hirq', hkm, hcid, fun h => h.errcode_reserved⟩

/-- Settles O16: the write is `writeWord`, whose bytes, frame and read-back are the lemmas about it. -/
theorem arrayWordWriteStoresFourBytes : Obligations.ArrayWordWriteStoresFourBytes := by
  unfold Obligations.ArrayWordWriteStoresFourBytes
  intro s r k v hm hb hk
  have ht := busTarget_array r k hk
  have hi : 4 * k + 3 < r.size := by omega
  obtain ⟨h0, h1, h2, h3⟩ := readByte_writeWord_same hm hi v
  refine ⟨(s.writeWord r (4 * k) v).respond .ok, hostAccess_write_accepted ht hb rfl, ?_, ?_, ?_, ?_, ?_, ?_, ?_, ?_⟩
  · exact (congrArg BitVec.toNat h0).trans (toNat_ofNat_field v 7 0)
  · exact (congrArg BitVec.toNat h1).trans (toNat_ofNat_field v 15 8)
  · exact (congrArg BitVec.toNat h2).trans (toNat_ofNat_field v 23 16)
  · exact (congrArg BitVec.toNat h3).trans (toNat_ofNat_field v 31 24)
  · exact fun q i hq => readByte_writeWord_other s v hq
  · exact congrArg (State.respond · .ok) (writeWord_frame s r (4 * k) v)
  · exact writeWord_pw_wf s hm r (4 * k) v
  · exact hostAccess_read_value ht (congrArg some (readWord_writeWord_same hm hi v))

/-- Settles O17: the busy rule at the two ports and at the registers, reads that do not see `BUSY`, and
`Effect.keepsInputs` for the step. -/
theorem busyBlockRefusesWritesAndKeepsItsInputs : Obligations.BusyBlockRefusesWritesAndKeepsItsInputs := by
  unfold Obligations.BusyBlockRefusesWritesAndKeepsItsInputs
  refine ⟨fun s off size v hb hoff => hostAccess_write_busy hb hoff size v, fun s off size b hoff => ?_,
    fun s t hstep hs ht => ?_⟩
  · refine ⟨s.busRead off size, rfl, ?_⟩
    rw [← busRead_busy hoff s size b]
    rfl
  · obtain ⟨a, l, he, -⟩ := step_effect_at hstep
    obtain ⟨hp, hk⟩ := he.keepsInputs hs ht
    exact ⟨hk.pw, hk.pwLen, hk.kfLen, hk.kfh, hp.mseed, hp.tseed, hp.rounds, hk.ckey, hp.iv, hp.cid, hp.doneIe,
      hp.errIe⟩

/-- Settles O18: a word that encodes an event runs it, accepted in an open stream and refused elsewhere; the other words
are refused; which words encode what is the decoder's rows. -/
theorem kfPushIsAcceptedExactlyInAnOpenStream : Obligations.KfPushIsAcceptedExactlyInAnOpenStream := by
  unfold Obligations.KfPushIsAcceptedExactlyInAnOpenStream
  refine ⟨fun s w => ?_, decode_kfPush_noEvent_iff, fun w hr => ⟨fun hk => ?_, fun hk hd => ?_, fun hk => ?_⟩⟩
  · rw [hostAccess_write_kfPush]
    by_cases hd : ∃ i, decode .kfPush w = .instr i
    · obtain ⟨i, hi⟩ := hd
      rw [eventPortWrite_of_decode hi]
      by_cases hs : s.op = .kfread ∧ s.phase = .kfStream
      · obtain ⟨t, ht, hok⟩ := exec_event_accepted (port_of_decode hi) hs
        refine ⟨t, ht, iff_of_true hok ⟨hs.1, hs.2, i, hi⟩, fun _ j hj => ?_, fun hne => absurd hok hne⟩
        obtain rfl := Decoded.instr.inj (hi.symm.trans hj)
        exact ht
      · exact ⟨_, exec_event_refused (port_of_decode hi) hs, iff_of_false nofun fun h => hs ⟨h.1, h.2.1⟩, nofun,
          fun _ => rfl⟩
    · exact ⟨_, eventPortWrite_of_noInstr hd s, iff_of_false nofun fun h => hd h.2.2, nofun, fun _ => rfl⟩
  · exact ⟨_, decode_kfPush_push hr hk, lowByte_toNat w⟩
  · exact decode_kfPush_eos hr hk hd
  · exact ⟨_, decode_kfPush_srcerr hr hk, lowByte_toNat w⟩

/-- Settles O10: the width and alignment rule comes before the map. -/
theorem wrongWidthOrAlignmentIsRefused : Obligations.WrongWidthOrAlignmentIsRefused := by
  unfold Obligations.WrongWidthOrAlignmentIsRefused
  intro s off size v h
  have ht := busTarget_misaligned h
  exact ⟨hostAccess_read_untargeted ht s, hostAccess_write_untargeted ht s v⟩

/-- Settles O12: the two write-only registers, the read-only one, and `STATUS`, each at its offset. -/
theorem accessRightsAreEnforced : Obligations.AccessRightsAreEnforced := by
  unfold Obligations.AccessRightsAreEnforced
  intro s v
  refine ⟨hostAccess_read_writeOnly (busTarget_offset .cmd) rfl,
    hostAccess_read_writeOnly (busTarget_offset .kfPush) rfl, ?_, fun hb => ⟨_, hostAccess_write_accepted (busTarget_offset .status) hb rfl, rfl⟩⟩
  have herr := hostAccess_write_register (busTarget_offset .errcode) nofun nofun s v
  rwa [registerWrite_readOnly rfl] at herr

/-- Settles O15: each write is accepted, its effect the register's own; the fields are the word's bits. -/
theorem controlRegisterWritesSetTheirFields : Obligations.ControlRegisterWritesSetTheirFields := by
  unfold Obligations.ControlRegisterWritesSetTheirFields
  intro s v hb
  refine ⟨hostAccess_write_accepted (busTarget_offset .rounds) hb rfl, ?_, ?_⟩
  · exact ⟨_, hostAccess_write_accepted (busTarget_offset .kmLen) hb rfl, toNat_ofNat_field v 15 0,
      toNat_ofNat_field v 23 16, rfl⟩
  · exact ⟨_, hostAccess_write_accepted (busTarget_offset .cipherId) hb rfl, lowByte_toNat v, rfl⟩

end Sys2Proof.Machine
end

section
/-! SUPPORT. The decoder row by row (R99, R101), and that it and the encoder are inverse to one another: a word decodes
to an instruction exactly when it is that instruction's word, written to that instruction's port. -/

namespace Sys2Proof

/-! ## Fields as numbers -/

/-- A one-bit field as a number (R13). -/
theorem toNat_bit (w : Word) (i : Nat) : (bit w i).toNat = field w i i := by
  have hlt : field w i i < 2 := by
    rw [field, Nat.add_sub_cancel_left]
    exact Nat.mod_lt _ (by decide)
  unfold bit
  rcases (by omega : field w i i = 0 ∨ field w i i = 1) with h | h <;> rw [h] <;> rfl

theorem toNat_keySourceOf (b : Bool) : (keySourceOf b).toNat = b.toNat := by cases b <;> rfl

theorem toNat_directionOf (b : Bool) : (directionOf b).toNat = b.toNat := by cases b <;> rfl

/-- The fields of a stream-event word (R100). -/
theorem eventWord_fields {kind : Nat} (hk : kind < 4) (b : Byte) :
    field (BitVec.ofNat 32 (0x100 * kind + b.toNat)) 31 10 = 0 ∧
    field (BitVec.ofNat 32 (0x100 * kind + b.toNat)) 9 8 = kind ∧
    lowByte (BitVec.ofNat 32 (0x100 * kind + b.toNat)) = b := by
  have hb := b.isLt
  refine ⟨?_, ?_, BitVec.eq_of_toNat_eq ?_⟩
  · simp only [field, BitVec.toNat_ofNat]; omega
  · simp only [field, BitVec.toNat_ofNat]; omega
  · rw [lowByte_toNat]; simp only [field, BitVec.toNat_ofNat]; omega

/-! ## The decoder, row by row -/

namespace Machine

/-- The row `DERIVE` (R99). -/
theorem decode_cmd_derive {w : Word} (hr : field w 31 13 = 0) (ho : field w 7 0 = 1) (hz : field w 12 8 = 0) :
    decode .cmd w = .instr .derive := by
  simp [decode, decodeCmd, hr, ho, hz]

/-- The row `KFREAD` (R99). -/
theorem decode_cmd_kfread {w : Word} (hr : field w 31 13 = 0) (ho : field w 7 0 = 2) (hz : field w 12 8 = 0) :
    decode .cmd w = .instr .kfread := by
  simp [decode, decodeCmd, hr, ho, hz]

/-- The row `OPEN` (R99). -/
theorem decode_cmd_openSession {w : Word} (hr : field w 31 13 = 0) (ho : field w 7 0 = 3) (hz : field w 12 10 = 0) :
    decode .cmd w = .instr (.openSession (keySourceOf (bit w 8)) (directionOf (bit w 9))) := by
  simp [decode, decodeCmd, hr, ho, hz]

/-- The row `CLEAR` (R99). -/
theorem decode_cmd_clear {w : Word} (hr : field w 31 13 = 0) (ho : field w 7 0 = 4) (hz : field w 9 8 = 0) :
    decode .cmd w = .instr (.clear (bit w 10) (bit w 11) (bit w 12)) := by
  simp [decode, decodeCmd, hr, ho, hz]

/-- Every other word written to `CMD` is illegal (R97, R99). -/
theorem decode_cmd_illegal {w : Word} (h : ¬ ∃ i, decode .cmd w = .instr i) :
    decode .cmd w = .illegalCommand (lowByte w) := by
  simp only [decode, decodeCmd] at h ⊢
  split_ifs at h ⊢
  · rfl
  · exact absurd ⟨_, rfl⟩ h
  · exact absurd ⟨_, rfl⟩ h
  · exact absurd ⟨_, rfl⟩ h
  · exact absurd ⟨_, rfl⟩ h
  · rfl

end Machine

open Machine

/-! ## Decoder and encoder are inverse -/

/-- R92, R100: the word of an instruction decodes to it at its port. -/
theorem decode_encode (i : Instr) : decode i.port (encode i) = .instr i := by
  cases i with
  | derive => exact decode_cmd_derive rfl rfl rfl
  | kfread => exact decode_cmd_kfread rfl rfl rfl
  | openSession ks dir => cases ks <;> cases dir <;> exact decode_cmd_openSession rfl rfl rfl
  | clear km ckey sess => cases km <;> cases ckey <;> cases sess <;> exact decode_cmd_clear rfl rfl rfl
  | push b =>
    obtain ⟨hr, hk, hd⟩ := eventWord_fields (kind := 0) (by decide) b
    have he : encode (.push b) = BitVec.ofNat 32 (0x100 * 0 + b.toNat) := by rw [Nat.mul_zero, Nat.zero_add]; rfl
    rw [he]
    exact (decode_kfPush_push hr hk).trans (by rw [hd])
  | eos => exact decode_kfPush_eos rfl rfl rfl
  | srcerr c =>
    obtain ⟨hr, hk, hd⟩ := eventWord_fields (kind := 2) (by decide) c
    exact (decode_kfPush_srcerr hr hk).trans (by rw [hd])

/-- R94, R97: a word that decodes at `CMD` has the opcode of its row and every field that the row does not list 0, so
the sums of R102 give the word again. -/
theorem encode_of_decodeCmd {w : Word} {i : Instr} (h : decodeCmd w = .instr i) : encode i = w := by
  have hw := w.isLt
  unfold decodeCmd at h
  split_ifs at h with hr hderive hkfread hopen hclear <;> obtain rfl := Decoded.instr.inj h <;>
    apply BitVec.eq_of_toNat_eq
  · change 1 = w.toNat; simp only [field] at hr hderive; omega
  · change 2 = w.toNat; simp only [field] at hr hkfread; omega
  · simp only [encode, toNat_keySourceOf, toNat_directionOf, toNat_bit, BitVec.toNat_ofNat]
    simp only [field] at hr hopen ⊢
    omega
  · simp only [encode, toNat_bit, BitVec.toNat_ofNat]
    simp only [field] at hr hclear ⊢
    omega

/-- R101: a word that decodes at `KF_PUSH` is the word of its event. -/
theorem encode_of_decodeEvent {w : Word} {i : Instr} (h : decodeEvent w = .instr i) : encode i = w := by
  have hw := w.isLt
  unfold decodeEvent at h
  split_ifs at h with hr hpush heos hsrcerr <;> obtain rfl := Decoded.instr.inj h <;> apply BitVec.eq_of_toNat_eq
  · simp only [encode, lowByte_toNat, BitVec.toNat_ofNat]
    simp only [field] at hr hpush ⊢
    omega
  · change 0x100 = w.toNat; simp only [field] at hr heos; omega
  · simp only [encode, lowByte_toNat, BitVec.toNat_ofNat]
    simp only [field] at hr hsrcerr ⊢
    omega

/-- A word that decodes is its instruction's word. -/
theorem encode_of_decode {p : Port} {w : Word} {i : Instr} (h : decode p w = .instr i) : encode i = w := by
  cases p with
  | cmd => exact encode_of_decodeCmd h
  | kfPush => exact encode_of_decodeEvent h

/-- R90 to R101 in one: what decodes, and to what. -/
theorem decode_eq_instr_iff (p : Port) (w : Word) (i : Instr) :
    decode p w = .instr i ↔ i.port = p ∧ encode i = w := by
  constructor
  · exact fun h => ⟨port_of_decode h, encode_of_decode h⟩
  · rintro ⟨rfl, rfl⟩
    exact decode_encode i

end Sys2Proof
end

section
/-! SUPPORT. The opcode map (R93, R100): a word under a row's mask shows the fields that the decoder tests. -/

namespace Sys2Proof

/-- A field as an extracted bit string. -/
theorem field_eq_extractLsb' (w : Word) (hi lo : Nat) : field w hi lo = (w.extractLsb' lo (hi + 1 - lo)).toNat := by
  rw [BitVec.extractLsb'_toNat, Nat.shiftRight_eq_div_pow]
  rfl

/-- A field that a mask keeps whole is the pattern's. -/
theorem field_of_and_eq {w mask pattern : Word} {hi lo : Nat} (h : w &&& mask = pattern)
    (hm : mask.extractLsb' lo (hi + 1 - lo) = BitVec.allOnes (hi + 1 - lo)) : field w hi lo = field pattern hi lo := by
  rw [field_eq_extractLsb', field_eq_extractLsb', ← h, BitVec.extractLsb'_and, hm, BitVec.and_allOnes]

/-- A word selects a row at the row's own port, by its masked bits. -/
theorem OpcodeRow.selects_iff (r : OpcodeRow) (p : Port) (w : Word) :
    r.selects p w = true ↔ r.port = p ∧ w &&& r.mask = r.pattern := by
  rw [OpcodeRow.selects, Bool.and_eq_true, beq_iff_eq, beq_iff_eq]

/-- The word of every instruction selects exactly the row of its mnemonic. -/
theorem selects_encode (i : Instr) : Laws.SelectsRow.Statement i := by
  cases i with
  | derive => exact Laws.SelectsRow.derive
  | kfread => exact Laws.SelectsRow.kfread
  | openSession ks dir => exact Laws.SelectsRow.openSession ks dir
  | clear km ckey sess => exact Laws.SelectsRow.clear km ckey sess
  | push b => exact Laws.SelectsRow.push b
  | eos => exact Laws.SelectsRow.eos
  | srcerr c => exact Laws.SelectsRow.srcerr c

/-- Every instruction has a row. -/
theorem exists_row_of_mnemonic (i : Instr) : ∃ r ∈ opcodeTable, r.mnemonic = i.mnemonic := by
  cases i <;> simp [opcodeTable, Instr.mnemonic]

/-- No two rows have the same mnemonic. -/
theorem opcodeTable_mnemonics : opcodeTable.Pairwise fun r q => r.mnemonic ≠ q.mnemonic := by decide

open Machine

/-- A word that selects a row decodes to an instruction of the row's mnemonic. -/
theorem exists_decode_of_selects {r : OpcodeRow} (hr : r ∈ opcodeTable) {p : Port} {w : Word}
    (h : r.selects p w = true) : ∃ i, decode p w = .instr i ∧ i.mnemonic = r.mnemonic := by
  obtain ⟨rfl, hw⟩ := (r.selects_iff p w).1 h
  simp only [opcodeTable, List.mem_cons, List.not_mem_nil, or_false] at hr
  rcases hr with rfl | rfl | rfl | rfl | rfl | rfl | rfl
  · exact ⟨_, decode_cmd_derive (field_of_and_eq hw rfl) (field_of_and_eq hw rfl) (field_of_and_eq hw rfl), rfl⟩
  · exact ⟨_, decode_cmd_kfread (field_of_and_eq hw rfl) (field_of_and_eq hw rfl) (field_of_and_eq hw rfl), rfl⟩
  · exact ⟨_, decode_cmd_openSession (field_of_and_eq hw rfl) (field_of_and_eq hw rfl) (field_of_and_eq hw rfl), rfl⟩
  · exact ⟨_, decode_cmd_clear (field_of_and_eq hw rfl) (field_of_and_eq hw rfl) (field_of_and_eq hw rfl), rfl⟩
  · exact ⟨_, decode_kfPush_push (field_of_and_eq hw rfl) (field_of_and_eq hw rfl), rfl⟩
  · exact ⟨_, decode_kfPush_eos (field_of_and_eq hw rfl) (field_of_and_eq hw rfl) (field_of_and_eq hw rfl), rfl⟩
  · exact ⟨_, decode_kfPush_srcerr (field_of_and_eq hw rfl) (field_of_and_eq hw rfl), rfl⟩

/-- A word that decodes selects the row of its mnemonic. -/
theorem exists_selects_of_decode {p : Port} {w : Word} {i : Instr} (h : decode p w = .instr i) :
    ∃ r ∈ opcodeTable, r.selects p w = true ∧ r.mnemonic = i.mnemonic := by
  obtain ⟨rfl, rfl⟩ := (decode_eq_instr_iff p w i).1 h
  obtain ⟨r, hr, hm⟩ := exists_row_of_mnemonic i
  exact ⟨r, hr, (selects_encode i r hr).2 hm, hm⟩

/-- Two rows that one word selects have the same mnemonic, for it decodes to one instruction. -/
theorem mnemonic_eq_of_selects {r q : OpcodeRow} (hr : r ∈ opcodeTable) (hq : q ∈ opcodeTable) {p : Port} {w : Word}
    (h : r.selects p w = true) (h' : q.selects p w = true) : r.mnemonic = q.mnemonic := by
  obtain ⟨i, hi, hri⟩ := exists_decode_of_selects hr h
  obtain ⟨j, hj, hqj⟩ := exists_decode_of_selects hq h'
  obtain rfl := Decoded.instr.inj (hi.symm.trans hj)
  exact hri.symm.trans hqj

end Sys2Proof
end

section
/-! SUPPORT. The fourteen legal command words (R94), row by row. -/

namespace Sys2Proof

theorem exists_keySource {P : KeySource → Prop} : (∃ ks, P ks) ↔ P .derived ∨ P .supplied := by
  constructor
  · rintro ⟨ks | ks, h⟩
    · exact .inl h
    · exact .inr h
  · rintro (h | h) <;> exact ⟨_, h⟩

theorem exists_direction {P : Direction → Prop} : (∃ dir, P dir) ↔ P .encrypt ∨ P .decrypt := by
  constructor
  · rintro ⟨dir | dir, h⟩
    · exact .inl h
    · exact .inr h
  · rintro (h | h) <;> exact ⟨_, h⟩

/-- The four words of `OPEN` (R94). -/
theorem exists_encode_openSession (w : Word) :
    (∃ ks dir, encode (.openSession ks dir) = w) ↔ w ∈ [0x003, 0x103, 0x203, 0x303] := by
  simp only [exists_keySource, exists_direction, encode, KeySource.toNat, Direction.toNat, List.mem_cons,
    List.not_mem_nil, or_false, @eq_comm _ w]
  tauto

/-- The eight words of `CLEAR` (R94). -/
theorem exists_encode_clear (w : Word) :
    (∃ km ckey sess, encode (.clear km ckey sess) = w) ↔
      w ∈ [0x004, 0x404, 0x804, 0xC04, 0x1004, 0x1404, 0x1804, 0x1C04] := by
  simp only [Bool.exists_bool, encode, Bool.toNat_true, Bool.toNat_false, List.mem_cons, List.not_mem_nil, or_false,
    @eq_comm _ w]
  tauto

/-- A command is one of four. -/
theorem exists_command {P : Instr → Prop} :
    (∃ i : Instr, i.port = .cmd ∧ P i) ↔
      P .derive ∨ P .kfread ∨ (∃ ks dir, P (.openSession ks dir)) ∨ ∃ km ckey sess, P (.clear km ckey sess) := by
  constructor
  · rintro ⟨i, hi, h⟩
    cases i with
    | derive => exact .inl h
    | kfread => exact .inr (.inl h)
    | openSession ks dir => exact .inr (.inr (.inl ⟨ks, dir, h⟩))
    | clear km ckey sess => exact .inr (.inr (.inr ⟨km, ckey, sess, h⟩))
    | push | eos | srcerr => cases hi
  · rintro (h | h | ⟨ks, dir, h⟩ | ⟨km, ckey, sess, h⟩) <;> exact ⟨_, rfl, h⟩

/-- The list of R94 is the words of `DERIVE` and `KFREAD`, then those of `OPEN`, then those of `CLEAR`. -/
theorem mem_legalCommandWords (w : Word) :
    w ∈ legalCommandWords ↔ w = 0x00000001 ∨ w = 0x00000002 ∨ w ∈ [0x003, 0x103, 0x203, 0x303] ∨
      w ∈ [0x004, 0x404, 0x804, 0xC04, 0x1004, 0x1404, 0x1804, 0x1C04] := by
  have hl : legalCommandWords = 0x00000001 :: 0x00000002 :: ([0x003, 0x103, 0x203, 0x303] ++
    [0x004, 0x404, 0x804, 0xC04, 0x1004, 0x1404, 0x1804, 0x1C04]) := rfl
  rw [hl, List.mem_cons, List.mem_cons, List.mem_append]

/-- R94: the words that decode at `CMD` are the legal ones. -/
theorem exists_decode_cmd_iff (w : Word) : (∃ i, decode .cmd w = .instr i) ↔ w ∈ legalCommandWords := by
  simp only [decode_eq_instr_iff, exists_command, exists_encode_openSession, exists_encode_clear,
    mem_legalCommandWords, @eq_comm _ w]
  rfl

end Sys2Proof
end

section
/-! The statements about the two word formats. -/

namespace Sys2Proof

open Machine

/-- Settles O1: `decode_encode`, row by row from the fields of the word. -/
theorem decodeOfEncodeIsInstr : Obligations.DecodeOfEncodeIsInstr := by
  unfold Obligations.DecodeOfEncodeIsInstr
  exact fun i _ => decode_encode i

/-- Settles O2: the fields that a row tests fill the word. -/
theorem encodeOfDecodeIsWord : Obligations.EncodeOfDecodeIsWord := by
  unfold Obligations.EncodeOfDecodeIsWord
  exact fun p w i => (decode_eq_instr_iff p w i).1

/-- Settles O3: a masked word shows the fields the decoder tests, and rows that share a word share a mnemonic. -/
theorem wordDecodesExactlyWhenItSelectsARow : Obligations.WordDecodesExactlyWhenItSelectsARow := by
  unfold Obligations.WordDecodesExactlyWhenItSelectsARow
  refine ⟨fun p w i => exists_selects_of_decode, fun r hr p w => exists_decode_of_selects hr, ?_⟩
  exact opcodeTable_mnemonics.imp_of_mem fun hr hq hne p w ⟨h, h'⟩ => hne (mnemonic_eq_of_selects hr hq h h')

/-- Settles O4: a word decodes to an instruction exactly when it is its word (`decode_eq_instr_iff`), and the words of
each row are counted out. -/
theorem fourteenLegalCommandWords : Obligations.FourteenLegalCommandWords := by
  unfold Obligations.FourteenLegalCommandWords
  refine ⟨exists_decode_cmd_iff, rfl, by decide, fun w => ?_, fun w => ?_, fun w => ?_, fun w => ?_⟩
  · exact (decode_eq_instr_iff .cmd w .derive).trans ((and_iff_right rfl).trans eq_comm)
  · exact (decode_eq_instr_iff .cmd w .kfread).trans ((and_iff_right rfl).trans eq_comm)
  · simp only [decode_eq_instr_iff, Instr.port, true_and, exists_encode_openSession]
  · simp only [decode_eq_instr_iff, Instr.port, true_and, exists_encode_clear]

/-- Settles O5: nine words evaluated. -/
theorem writtenOutWordsDecode : Obligations.WrittenOutWordsDecode := by
  unfold Obligations.WrittenOutWordsDecode
  decide

end Sys2Proof

namespace Sys2Proof.Machine

/-- A word write at the offset of `CMD` goes to the command port (R91). -/
theorem hostAccess_write_cmd (s : State) (w : Word) : hostAccess (.write 0x000 4 w) s = cmdPortWrite w s := by
  have ht : busTarget 0x000 4 = some (.cmd, 0) := busTarget_offset .cmd
  simp only [hostAccess, ht]

/-- A `CMD` write at an idle block is accepted (R91 step 1). -/
theorem commandWrite_idle {s : State} (hb : s.busy = false) (body : State → State) :
    s.commandWrite body = .next (body s.accepted) :=
  if_neg (by simp [hb])

/-- An illegal word at an idle block is rejected with its opcode byte (R91 step 3, R97). -/
theorem cmdPortWrite_illegal {s : State} {w : Word} (hb : s.busy = false) (hw : w ∉ legalCommandWords) :
    cmdPortWrite w s = .next (s.accepted.reject .badCmd (lowByte w)) := by
  have hd := decode_cmd_illegal fun h => hw ((exists_decode_cmd_iff w).1 h)
  simp only [cmdPortWrite, hd, commandWrite_idle hb]

/-- Settles O7: an illegal word is rejected as `E_BADCMD`, its information byte the word's bits 7:0. -/
theorem illegalCommandWordRecordsBadCmd : Obligations.IllegalCommandWordRecordsBadCmd := by
  unfold Obligations.IllegalCommandWordRecordsBadCmd
  intro s w hb hw
  rw [hostAccess_write_cmd, cmdPortWrite_illegal hb hw, ← lowByte_toNat]
  rfl

/-! ## Issue (R96) -/

/-- R129. -/
theorem exec_derive_issues {s : State} (hb : s.busy = false) (hl : s.lengthsLegal = true) :
    exec .derive s = .next (s.accepted.issue .derive .base .derived .encrypt ⟨false, false, false⟩) := by
  rw [exec, execDerive, commandWrite_idle hb, if_pos]
  exact hl

/-- R156. -/
theorem exec_kfread_issues {s : State} (hb : s.busy = false) :
    exec .kfread s = .next
      { s.accepted.issue .kfread .kfStream .derived .encrypt ⟨false, false, false⟩ with
        kfAll := [], kfEnd := .none } := by
  rw [exec, execKfread, commandWrite_idle hb]

/-- R173: the lengths matter only where the key is derived. -/
theorem exec_openSession_issues {s : State} {ks : KeySource} (hb : s.busy = false)
    (hl : ks = .derived → s.lengthsLegal = true) (dir : Direction) :
    exec (.openSession ks dir) s = .next (s.accepted.openIssue ks dir) := by
  rw [exec, execOpenSession, commandWrite_idle hb, if_neg]
  rintro ⟨hk, hbad⟩
  exact Bool.false_ne_true (hbad.symm.trans (hl hk))

/-- R191. -/
theorem exec_clear_issues {s : State} (hb : s.busy = false) (km ckey sess : Bool) :
    exec (.clear km ckey sess) s =
      .next (s.accepted.issue .clear .clear .derived .encrypt ⟨km, ckey, sess⟩) := by
  rw [exec, execClear, commandWrite_idle hb]

/-- Settles O21: at an idle block each command's own issue; at a busy one the busy rule. -/
theorem legalCommandsIssue : Obligations.LegalCommandsIssue := by
  unfold Obligations.LegalCommandsIssue
  refine ⟨fun s hb => ⟨?_, ?_, ?_, ?_, ?_⟩, fun s i hb hi => exec_command_busy hi hb⟩
  · exact exec_derive_issues hb
  · exact exec_kfread_issues hb
  · exact fun dir hl => exec_openSession_issues hb (fun _ => hl) dir
  · exact exec_openSession_issues hb nofun
  · exact exec_clear_issues hb

end Sys2Proof.Machine
end

section
/-! SUPPORT. `WAIT` poll by poll (R103): which poll ends it, under any schedule. -/

namespace Sys2Proof.Machine

/-- A poll in the middle of a run shows in the response alone. -/
theorem runActions_poll {as : List Action} {s t : State} (h : s.runActions as = some t) (bs : List Action) :
    s.runActions (as ++ [.host pollAccess] ++ bs) = ({ t with bus := .okData t.statusWord } : State).runActions bs := by
  rw [List.append_assoc, runActions_append, h, Option.bind_some, List.singleton_append, runActions_cons (act_poll t)]

/-- A run that ends with a poll. -/
theorem runActions_last_poll {as : List Action} {s t : State} (h : s.runActions as = some t) :
    s.runActions (as ++ [.host pollAccess]) = some { t with bus := .okData t.statusWord } := by
  have hlast := runActions_poll h []
  rw [List.append_nil, runActions_nil] at hlast
  rw [hlast, ← agenda_of_runActions h]

/-- A run whose first actions are refused is refused. -/
theorem runActions_none {as : List Action} {s : State} (h : s.runActions as = none) (bs : List Action) :
    s.runActions (as ++ bs) = none := by
  rw [runActions_append, h, Option.bind_none]

/-- The `WAIT` begun at `s`, under the turns `sched`, ends at `p` with the poll numbered `k`, every earlier poll having
found the block busy; `taken` is what was done before it began. -/
structure WaitEnds (sched : Schedule) (s : State) (taken : List Action) (p : Progress) (k : Nat) : Prop where
  inSchedule : k ≤ sched.length
  run : s.runActions (pollActions sched k) = some p.state
  idle : p.state.busy = false
  taken_eq : p.taken = taken ++ pollActions sched k
  sched_eq : p.sched = sched.drop (k + 1)
  busyBefore : ∀ j, j < k → ∃ u, s.runActions (pollActions sched j) = some u ∧ u.busy = true

/-- With no turns to come the one poll is the first. -/
theorem waitEnds_nil_iff (s : State) (taken : List Action) (p : Progress) (k : Nat) :
    WaitEnds [] s taken p k ↔
      k = 0 ∧ s.busy = false ∧ p = ⟨{ s with agenda := [], bus := .okData s.statusWord }, [],
        taken ++ [.host pollAccess]⟩ := by
  have hrun : s.runActions (pollActions [] 0) = some { s with agenda := [], bus := .okData s.statusWord } :=
    runActions_last_poll (runActions_nil s)
  constructor
  · intro h
    obtain rfl : k = 0 := Nat.le_zero.1 h.inSchedule
    obtain ⟨q, sched, tk⟩ := p
    obtain rfl := Option.some.inj (h.run.symm.trans hrun)
    obtain rfl := h.taken_eq
    obtain rfl := h.sched_eq
    exact ⟨rfl, h.idle, rfl⟩
  · rintro ⟨rfl, hb, rfl⟩
    exact ⟨Nat.zero_le _, hrun, hb, rfl, rfl, nofun⟩

/-- A `WAIT` ends with its first poll when the turns before it leave the block idle. -/
theorem waitEnds_zero_iff {turns : List Action} {more : Schedule} {s t : State} (ht : s.runActions turns = some t)
    (taken : List Action) (p : Progress) :
    WaitEnds (turns :: more) s taken p 0 ↔
      t.busy = false ∧ p = ⟨{ t with bus := .okData t.statusWord }, more,
        taken ++ (turns ++ [.host pollAccess])⟩ := by
  have hrun := runActions_last_poll ht
  rw [← pollActions_zero turns more] at hrun
  constructor
  · intro h
    obtain ⟨q, sched, tk⟩ := p
    obtain rfl := Option.some.inj (h.run.symm.trans hrun)
    obtain rfl : tk = _ := h.taken_eq
    obtain rfl : sched = more := h.sched_eq
    rw [pollActions_zero]
    exact ⟨h.idle, rfl⟩
  · rintro ⟨hb, rfl⟩
    exact ⟨Nat.zero_le _, hrun, hb, by rw [pollActions_zero], rfl, nofun⟩

/-- A `WAIT` ends with a later poll when its first one finds the block busy and the `WAIT` from there ends. -/
theorem waitEnds_succ_iff {turns : List Action} {more : Schedule} {s t : State} (ht : s.runActions turns = some t)
    (taken : List Action) (p : Progress) (k : Nat) :
    WaitEnds (turns :: more) s taken p (k + 1) ↔
      t.busy = true ∧ WaitEnds more { t with bus := .okData t.statusWord }
        (taken ++ (turns ++ [.host pollAccess])) p k := by
  have hfirst := runActions_last_poll ht
  rw [← pollActions_zero turns more] at hfirst
  have hlater : ∀ j, s.runActions (pollActions (turns :: more) (j + 1)) =
      ({ t with bus := .okData t.statusWord } : State).runActions (pollActions more j) := fun j => by
    rw [pollActions_succ, runActions_poll ht]
  constructor
  · intro h
    obtain ⟨u, hu, hbusy⟩ := h.busyBefore 0 (Nat.succ_pos k)
    obtain rfl := Option.some.inj (hu.symm.trans hfirst)
    refine ⟨hbusy, Nat.le_of_succ_le_succ h.inSchedule, (hlater k).symm.trans h.run, h.idle, ?_, h.sched_eq, ?_⟩
    · rw [h.taken_eq, pollActions_succ, List.append_assoc taken]
    · exact fun j hj => hlater j ▸ h.busyBefore (j + 1) (Nat.succ_lt_succ hj)
  · rintro ⟨hbusy, h⟩
    refine ⟨Nat.succ_le_succ h.inSchedule, (hlater k).trans h.run, h.idle, ?_, h.sched_eq, ?_⟩
    · rw [h.taken_eq, pollActions_succ, List.append_assoc taken]
    · intro j hj
      cases j with
      | zero => exact ⟨_, hfirst, hbusy⟩
      | succ j => exact hlater j ▸ h.busyBefore j (Nat.lt_of_succ_lt_succ hj)

/-- Turns that are refused let no `WAIT` end. -/
theorem not_waitEnds_of_refused {turns : List Action} {more : Schedule} {s : State} (hr : s.runActions turns = none)
    (taken : List Action) (p : Progress) (k : Nat) : ¬ WaitEnds (turns :: more) s taken p k := by
  intro h
  have hrun := h.run
  cases k with
  | zero => rw [pollActions_zero, runActions_none hr] at hrun; cases hrun
  | succ k => rw [pollActions_succ, List.append_assoc, runActions_none hr] at hrun; cases hrun

/-- A `WAIT`'s result is `STATUS` where it ends. -/
theorem some_value_eq_iff {v w : Word} {p q : Progress} (hw : w = q.state.statusWord) :
    some (w, q) = some (v, p) ↔ v = p.state.statusWord ∧ p = q := by
  subst hw
  constructor
  · rintro ⟨⟩
    exact ⟨rfl, rfl⟩
  · rintro ⟨rfl, rfl⟩
    rfl

/-- The polls of a `WAIT` are `waitLoop`'s. -/
theorem waitLoop_eq_some_iff (sched : Schedule) (s : State) (taken : List Action) (v : Word) (p : Progress) :
    waitLoop sched s taken = some (v, p) ↔ v = p.state.statusWord ∧ ∃ k, WaitEnds sched s taken p k := by
  induction sched generalizing s taken with
  | nil =>
    simp only [waitLoop_nil, waitEnds_nil_iff, exists_eq_left]
    by_cases hb : s.busy = true
    · simp [hb]
    · rw [if_neg hb]
      refine (some_value_eq_iff ?_).trans ?_
      · rfl
      · simp [hb]
  | cons turns more ih =>
    rw [waitLoop_cons]
    cases ht : s.runActions turns with
    | none => simp [not_waitEnds_of_refused ht]
    | some t =>
      simp only [← Nat.or_exists_add_one (p := WaitEnds _ _ _ _), waitEnds_zero_iff ht, waitEnds_succ_iff ht]
      by_cases hb : t.busy = true
      · simp [hb, ih]
      · rw [if_neg hb]
        refine (some_value_eq_iff ?_).trans ?_
        · rfl
        · simp [hb]

/-- A script of one `WAIT` ends as its `WAIT` does. -/
theorem runScript_wait_eq_some_iff (s : State) (sched : Schedule) (v : Word) (p : Progress) :
    s.runScript sched [.wait] = some ([.value v], p) ↔ waitLoop sched s [] = some (v, p) := by
  rw [runScript_wait]
  cases waitLoop sched s [] with
  | none => simp
  | some x => simp [Prod.ext_iff]

/-- Settles O57: `WaitEnds` spelled out. -/
theorem waitEndsWithTheFirstPollOfAnIdleBlock : Obligations.WaitEndsWithTheFirstPollOfAnIdleBlock := by
  unfold Obligations.WaitEndsWithTheFirstPollOfAnIdleBlock
  intro s sched v p
  rw [runScript_wait_eq_some_iff, waitLoop_eq_some_iff]
  constructor
  · rintro ⟨hv, k, h⟩
    exact ⟨k, h.inSchedule, h.run, h.idle, hv, h.taken_eq, h.sched_eq, h.busyBefore⟩
  · rintro ⟨k, hk, hrun, hidle, hv, htaken, hsched, hbefore⟩
    exact ⟨hv, k, hk, hrun, hidle, htaken, hsched, hbefore⟩

end Sys2Proof.Machine
end

section
/-! SUPPORT. The internal steps still to come (R135, R273): every enabled one counts down, one is enabled while a command
is in flight that awaits no stream, and so a fair stretch brings the command nearer its end. -/

namespace Sys2Proof.Machine

/-! ## One step -/

/-- A `DERIVE` has no select step to come. -/
theorem selectWork_derive {s : State} (ho : s.op = .derive) : s.selectWork = 0 := by
  simp [State.selectWork, ho]

/-- An `OPEN` has one. -/
theorem selectWork_openSession {s : State} (ho : s.op = .openSession) : s.selectWork = 1 := if_pos ho

theorem internalWork_idle {s : State} (hp : s.phase = .idle) : s.internalWork = 0 := by
  simp only [State.internalWork, hp]

theorem internalWork_base {s : State} (hp : s.phase = .base) :
    s.internalWork = 2 * s.rounds.toNat + 3 + s.selectWork := by
  simp only [State.internalWork, hp]

theorem internalWork_stretch {s : State} (hp : s.phase = .stretch) :
    s.internalWork = s.laneCnt[0].toNat + s.laneCnt[1].toNat + 2 + s.selectWork := by
  simp only [State.internalWork, hp]

theorem internalWork_final {s : State} (hp : s.phase = .final) : s.internalWork = 1 + s.selectWork := by
  simp only [State.internalWork, hp]

theorem selectStep_phase (s : State) : s.selectStep.phase = .idle := by
  unfold State.selectStep
  split <;> rfl

theorem kfFinishStep_phase (s : State) : s.kfFinishStep.phase = .idle := by
  unfold State.kfFinishStep
  split <;> rfl

/-- The final step of a derivation leaves the select step of its `OPEN`, or nothing (R134). -/
theorem finalStep_internalWork {s : State} (ho : s.op.derives = true) : s.finalStep.internalWork = s.selectWork := by
  rcases derives_cases ho with ho | ho
  · rw [finalStep_derive ho, selectWork_derive ho]
    rfl
  · rw [finalStep_openSession ho, selectWork_openSession ho]
    rfl

/-- A step of the sequencer is one step less to come (R135). -/
theorem sequencerStep_internalWork {s t : State} (hs : s.sequencerStep = some t) :
    t.internalWork + 1 = s.internalWork := by
  rcases sequencerStep_cases hs with ⟨hp, -, rfl⟩ | ⟨hp, -, h0, h1, rfl⟩ | ⟨hp, ho, rfl⟩ | ⟨hp, -, rfl⟩ |
    ⟨hp, -, rfl⟩ | ⟨hp, -, rfl⟩
  · have hw : s.baseForkStep.internalWork = s.rounds.toNat + s.rounds.toNat + 2 + s.selectWork := rfl
    rw [hw, internalWork_base hp]
    omega
  · have hw : s.joinStep.internalWork = 1 + s.selectWork := rfl
    have hz : (0 : Word).toNat = 0 := rfl
    rw [hw, internalWork_stretch hp, h0, h1]
    omega
  · rw [finalStep_internalWork ho, internalWork_final hp, Nat.add_comm]
  · rw [internalWork_idle (selectStep_phase s)]
    simp only [State.internalWork, hp]
  · rw [internalWork_idle (kfFinishStep_phase s)]
    simp only [State.internalWork, hp]
  · rw [internalWork_idle (s := s.clearStep) rfl]
    simp only [State.internalWork, hp]

/-- An enabled lane's step is one application less owed by the two lanes together (R136). -/
theorem laneEncStep_owed {s : State} {j : LaneId} (hc : s.laneCnt[j] ≠ 0) :
    (s.laneEncStep j).laneCnt[0].toNat + (s.laneEncStep j).laneCnt[1].toNat + 1 =
      s.laneCnt[0].toNat + s.laneCnt[1].toNat := by
  have hown := laneCnt_laneEncStep_toNat s j hc
  have hother : ∀ k : LaneId, k ≠ j → (s.laneEncStep j).laneCnt[k].toNat = s.laneCnt[k].toNat := fun k hk =>
    congrArg BitVec.toNat (laneCnt_laneEncStep_other s j k hk)
  generalize s.laneEncStep j = t at *
  rcases (by decide : ∀ j : LaneId, j = 0 ∨ j = 1) j with rfl | rfl
  · have h0 : t.laneCnt[0].toNat + 1 = s.laneCnt[0].toNat := hown
    have h1 : t.laneCnt[1].toNat = s.laneCnt[1].toNat := hother 1 (by decide)
    omega
  · have h0 : t.laneCnt[0].toNat = s.laneCnt[0].toNat := hother 0 (by decide)
    have h1 : t.laneCnt[1].toNat + 1 = s.laneCnt[1].toNat := hown
    omega

/-- A lane's step is one step less to come (R135). -/
theorem laneStep_internalWork {s t : State} {j : LaneId} (hs : s.laneStep j = some t) :
    t.internalWork + 1 = s.internalWork := by
  obtain ⟨hp, hc, rfl⟩ := laneStep_cases hs
  have howed := laneEncStep_owed hc
  have hsel : (s.laneEncStep j).selectWork = s.selectWork := by simp only [State.selectWork, laneEncStep_op]
  rw [internalWork_stretch ((laneEncStep_phase s j).trans hp), internalWork_stretch hp, hsel]
  omega

/-- An enabled internal step is one step less to come (R135, R273). -/
theorem internalStep_internalWork {s t : State} {a : Action} (h : s.internalStep a = some t) :
    t.internalWork + 1 = s.internalWork := by
  cases a with
  | sequencer => exact sequencerStep_internalWork h
  | lane j => exact laneStep_internalWork h
  | host | codec | reset => cases h

theorem MachineInv.internalStep {s t : State} {a : Action} (h : MachineInv s) (hs : s.internalStep a = some t) :
    MachineInv t := by
  cases a with
  | sequencer => exact h.sequencerStep hs
  | lane j => exact h.laneStep hs
  | host | codec | reset => cases hs

/-! ## Progress -/

/-- A derivation's phase enables the sequencer, or a lane that still owes an application (R132, R133). -/
theorem exists_internalStep_of_stretch {s : State} (hp : s.phase = .stretch) (ho : s.op.derives = true) :
    ∃ a t, s.internalStep a = some t := by
  by_cases h0 : s.laneCnt[0] = 0
  · by_cases h1 : s.laneCnt[1] = 0
    · exact ⟨.sequencer, s.joinStep, by simp [State.internalStep, State.sequencerStep, hp, ho, h0, h1]⟩
    · exact ⟨.lane 1, s.laneEncStep 1, if_pos ⟨hp, h1⟩⟩
  · exact ⟨.lane 0, s.laneEncStep 0, if_pos ⟨hp, h0⟩⟩

/-- The commands that pass through a phase (R40). -/
def Phase.belongsTo (op : Op) : Phase → Prop
  | .idle => op = .none
  | .base | .stretch | .final => op.derives = true
  | .select => op = .openSession
  | .kfStream | .kfFinish => op = .kfread
  | .clear => op = .clear

theorem belongsTo_of_legalPhase {op : Op} {ks : KeySource} {p : Phase} (h : legalPhase op ks p = true) :
    p.belongsTo op := by
  cases p <;> cases op <;> simp [legalPhase, Phase.belongsTo, Op.derives] at h ⊢

/-- A command in flight has an internal step enabled, but for a `KFREAD` that awaits its stream (R135, R273). -/
theorem MachineInv.exists_internalStep {s : State} (h : MachineInv s) (hb : s.busy = true) (hk : s.phase ≠ .kfStream) :
    ∃ a t, s.internalStep a = some t := by
  have hop : s.phase.belongsTo s.op := belongsTo_of_legalPhase h.phaseLegal
  cases hp : s.phase <;> rw [hp] at hop <;> simp only [Phase.belongsTo] at hop
  case idle => exact absurd hop (h.busyIffOp.1 hb)
  case kfStream => exact absurd hp hk
  case stretch => exact exists_internalStep_of_stretch hp hop
  all_goals exact ⟨.sequencer, by simp [State.internalStep, State.sequencerStep, hp, hop]⟩

/-! ## Runs of the block's own agents -/

/-- The turn of an internal agent that has no step enabled passes (log 1). -/
theorem act_internal {a : Action} (ha : a.internal = true) (s : State) :
    act a s = .next ((s.internalStep a).getD s) := by
  cases a with
  | sequencer | lane => rfl
  | host | codec | reset => cases ha

/-- A step of the block's own agents opens no stream (R156). -/
theorem internalStep_phase {s t : State} {a : Action} (h : s.internalStep a = some t) : t.phase ≠ .kfStream := by
  cases a with
  | sequencer =>
    rcases sequencerStep_cases h with ⟨-, -, rfl⟩ | ⟨-, -, -, -, rfl⟩ | ⟨-, ho, rfl⟩ | ⟨-, -, rfl⟩ | ⟨-, -, rfl⟩ |
      ⟨-, -, rfl⟩
    · exact nofun
    · exact nofun
    · rcases derives_cases ho with ho | ho
      · rw [finalStep_derive ho]; exact nofun
      · rw [finalStep_openSession ho]; exact nofun
    · rw [selectStep_phase]; exact nofun
    · rw [kfFinishStep_phase]; exact nofun
    · exact nofun
  | lane j =>
    obtain ⟨hp, -, rfl⟩ := laneStep_cases h
    rw [laneEncStep_phase, hp]
    exact nofun
  | host | codec | reset => cases h

/-- Turns of the block's own agents leave less work, or each of them passes. -/
theorem runActions_internal {as : List Action} (has : ∀ a ∈ as, a.internal = true) {s : State} (h : MachineInv s)
    (hk : s.phase ≠ .kfStream) :
    ∃ t, s.runActions as = some t ∧ MachineInv t ∧ t.phase ≠ .kfStream ∧
      (t.internalWork < s.internalWork ∨ t = { s with agenda := [] } ∧ ∀ a ∈ as, s.internalStep a = none) := by
  induction as generalizing s with
  | nil => exact ⟨_, runActions_nil s, h.agenda [], hk, .inr ⟨rfl, nofun⟩⟩
  | cons a as ih =>
    have hint := List.forall_mem_cons.1 has
    have hact := act_internal hint.1 s
    cases hs : s.internalStep a with
    | none =>
      rw [hs] at hact
      obtain ⟨t, hrun, ht, htk, hw⟩ := ih hint.2 h hk
      refine ⟨t, (runActions_cons hact as).trans hrun, ht, htk, hw.imp_right fun ⟨hsame, hnone⟩ => ⟨hsame, ?_⟩⟩
      exact List.forall_mem_cons.2 ⟨hs, hnone⟩
    | some u =>
      rw [hs] at hact
      have hwork := internalStep_internalWork hs
      obtain ⟨t, hrun, ht, htk, hw⟩ := ih hint.2 (h.internalStep hs) (internalStep_phase hs)
      refine ⟨t, (runActions_cons hact as).trans hrun, ht, htk, .inl ?_⟩
      rcases hw with hlt | ⟨rfl, -⟩
      · omega
      · exact Nat.lt_of_lt_of_eq (Nat.lt_succ_self u.internalWork) hwork

/-- An agent with a step enabled is one that a fair stretch gives a turn. -/
theorem mem_fairRound {turns : List Action} (hf : fairRound turns) {s t : State} {a : Action}
    (h : s.internalStep a = some t) : a ∈ turns := by
  obtain ⟨-, hseq, hlane⟩ := hf
  cases a with
  | sequencer => exact hseq
  | lane j => exact hlane j
  | host | codec | reset => cases h

/-- A fair stretch brings a command in flight nearer its completion (R135, R273). -/
theorem runActions_fairRound {turns : List Action} (hf : fairRound turns) {s : State} (h : MachineInv s)
    (hb : s.busy = true) (hk : s.phase ≠ .kfStream) :
    ∃ t, s.runActions turns = some t ∧ MachineInv t ∧ t.phase ≠ .kfStream ∧ t.internalWork < s.internalWork := by
  obtain ⟨t, hrun, ht, htk, hw⟩ := runActions_internal hf.1 h hk
  refine ⟨t, hrun, ht, htk, hw.resolve_right ?_⟩
  rintro ⟨-, hnone⟩
  obtain ⟨a, u, hu⟩ := h.exists_internalStep hb hk
  exact Option.some_ne_none u (hu.symm.trans (hnone a (mem_fairRound hf hu)))

/-- While a stream is open no internal agent has a step (R156). -/
theorem internalStep_kfStream {s : State} (hp : s.phase = .kfStream) (a : Action) : s.internalStep a = none := by
  cases a with
  | sequencer => simp only [State.internalStep, State.sequencerStep, hp]
  | lane j => exact if_neg fun h => Phase.noConfusion (hp.symm.trans h.1)
  | host | codec | reset => rfl

/-- Turns of internal agents that all pass change nothing. -/
theorem runActions_kfStream {as : List Action} (has : ∀ a ∈ as, a.internal = true) {s : State}
    (hp : s.phase = .kfStream) : s.runActions as = some { s with agenda := [] } := by
  induction as with
  | nil => exact runActions_nil s
  | cons a as ih =>
    have hint := List.forall_mem_cons.1 has
    have hact := act_internal hint.1 s
    rw [internalStep_kfStream hp a] at hact
    exact (runActions_cons hact as).trans (ih hint.2)

/-! ## `WAIT` -/

/-- A `WAIT` ends within as many fair stretches as there are internal steps to come (R273). -/
theorem waitLoop_fair {sched : Schedule} {s : State} (taken : List Action) (h : MachineInv s) (hb : s.busy = true)
    (hk : s.phase ≠ .kfStream) (hlen : s.internalWork ≤ sched.length) (hf : ∀ turns ∈ sched, fairRound turns) :
    ∃ x, waitLoop sched s taken = some x := by
  induction sched generalizing s taken with
  | nil =>
    obtain ⟨a, t, ht⟩ := h.exists_internalStep hb hk
    have hwork := internalStep_internalWork ht
    exact absurd hlen (by rw [← hwork]; exact Nat.not_succ_le_zero _)
  | cons turns more ih =>
    obtain ⟨hturns, hmore⟩ := List.forall_mem_cons.1 hf
    obtain ⟨t, hrun, ht, htk, hlt⟩ := runActions_fairRound hturns h hb hk
    rw [waitLoop_cons, hrun]
    by_cases htb : t.busy = true
    · have hle : t.internalWork ≤ more.length := Nat.le_of_lt_succ (Nat.lt_of_lt_of_le hlt hlen)
      obtain ⟨x, hx⟩ := ih (taken ++ (turns ++ [.host pollAccess])) (ht.respond (.okData t.statusWord)) htb htk hle hmore
      exact ⟨x, (if_pos htb).trans hx⟩
    · exact ⟨_, if_neg htb⟩

/-- With a stream open no `WAIT` ends by turns of the block's own agents (R265). -/
theorem waitLoop_kfStream {sched : Schedule} {s : State} (taken : List Action) (hb : s.busy = true)
    (hp : s.phase = .kfStream) (hint : ∀ turns ∈ sched, ∀ a ∈ turns, a.internal = true) :
    waitLoop sched s taken = none := by
  induction sched generalizing s taken with
  | nil => rw [waitLoop_nil, if_pos hb]
  | cons turns more ih =>
    obtain ⟨hturns, hmore⟩ := List.forall_mem_cons.1 hint
    rw [waitLoop_cons, runActions_kfStream hturns hp]
    exact (if_pos hb).trans (ih _ hb hp hmore)

/-- The command in flight while a stream is open is a `KFREAD` (R40). -/
theorem MachineInv.busy_of_kfStream {s : State} (h : MachineInv s) (hp : s.phase = .kfStream) : s.busy = true := by
  have hop : s.phase.belongsTo s.op := belongsTo_of_legalPhase h.phaseLegal
  rw [hp] at hop
  exact h.busyIffOp.2 (by rw [show s.op = .kfread from hop]; exact nofun)

/-- Settles O58: fair stretches count the work down (`waitLoop_fair`); with a stream open every turn passes. -/
theorem waitEndsExactlyWhenTheCommandCompletes : Obligations.WaitEndsExactlyWhenTheCommandCompletes := by
  unfold Obligations.WaitEndsExactlyWhenTheCommandCompletes
  constructor
  · intro s sched h hb hk hlen hf
    obtain ⟨⟨v, p⟩, hw⟩ := waitLoop_fair [] h hb hk hlen hf
    obtain ⟨hv, k, hends⟩ := (waitLoop_eq_some_iff _ _ _ _ _).1 hw
    exact ⟨v, p, (runScript_wait_eq_some_iff _ _ _ _).2 hw, hends.idle, hv⟩
  · intro s sched h hp hint
    rw [runScript_wait, waitLoop_kfStream [] (h.busy_of_kfStream hp) hp hint]
    rfl

end Sys2Proof.Machine
end

section
/-! SUPPORT. Scripts of bus accesses alone, with no turn of another agent between them (R102, R103; the empty schedule of
log 18). -/

namespace Sys2Proof.Machine

/-- The first of several accesses, then the others. -/
theorem accesses_cons_next {p : Progress} {a : Access} {t : State} (hs : p.sched = [])
    (h : hostAccess a p.state = .next t) (as : List Access) :
    p.accesses (a :: as) =
      ((Progress.mk { t with agenda := [] } [] (p.taken ++ [.host a])).accesses as).map fun x =>
        (t.bus :: x.1, x.2) := by
  rw [Progress.accesses, access_next hs h]
  dsimp only
  cases (Progress.mk { t with agenda := [] } [] (p.taken ++ [.host a])).accesses as <;> rfl

/-- A script of one `LDB`. -/
theorem runScript_ldb (s : State) (sched : Schedule) (r : ByteReg) (bs : Bytes) :
    s.runScript sched [.ldb r bs] =
      ((Progress.mk s sched []).accesses (HostLine.ldb r bs).accesses).map fun x => ([.responses x.1], x.2) := by
  simp only [State.runScript, Progress.lines, Progress.line, Progress.plainLine, HostLine.result]
  cases (Progress.mk s sched []).accesses (HostLine.ldb r bs).accesses <;> rfl

/-- A script of one `RDB`. -/
theorem runScript_rdb (s : State) (sched : Schedule) (r : ByteReg) :
    s.runScript sched [.rdb r] =
      ((Progress.mk s sched []).accesses (HostLine.rdb r).accesses).map fun x => ([rdbResult x.1], x.2) := by
  simp only [State.runScript, Progress.lines, Progress.line, Progress.plainLine, HostLine.result]
  cases (Progress.mk s sched []).accesses (HostLine.rdb r).accesses <;> rfl

/-! ## `RDB` -/

/-- A byte-array register does not show the agenda or the bus response. -/
theorem readByte_agenda_bus (s : State) (l : List Action) (b : Response) (r : ByteReg) (i : Nat) :
    ({ s with agenda := l, bus := b } : State).readByte r i = s.readByte r i := by
  cases r <;> rfl

theorem readWord_agenda_bus (s : State) (l : List Action) (b : Response) (r : ByteReg) (i : Nat) :
    ({ s with agenda := l, bus := b } : State).readWord r i = s.readWord r i := by
  simp only [State.readWord, readByte_agenda_bus]

/-- The read of word `k` of a byte-array register. -/
def readAccess (r : ByteReg) (k : Nat) : Access := .read ((Reg.array r).offset + 4 * k) 4

/-- Word reads of a byte-array register give its words and change nothing but the response. -/
theorem accesses_readAccess {r : ByteReg} {ks : List Nat} (hks : ∀ k ∈ ks, 4 * k + 4 ≤ r.size) {p : Progress}
    (hs : p.sched = []) :
    ∃ q, p.accesses (ks.map (readAccess r)) = some (ks.map fun k => .okData (p.state.readWord r (4 * k)), q) ∧
      q.state = { p.state with agenda := (if ks = [] then p.state.agenda else []), bus := q.state.bus } := by
  induction ks generalizing p with
  | nil => exact ⟨p, rfl, rfl⟩
  | cons k ks ih =>
    obtain ⟨hk, hrest⟩ := List.forall_mem_cons.1 hks
    have hread : hostAccess (readAccess r k) p.state =
        .next { p.state with bus := .okData (p.state.readWord r (4 * k)) } :=
      hostAccess_read_value (busTarget_array r k hk) rfl
    obtain ⟨q, hq, hstate⟩ := ih hrest (p := ⟨{ p.state with agenda := [], bus := .okData (p.state.readWord r (4 * k)) },
      [], p.taken ++ [.host (readAccess r k)]⟩) rfl
    refine ⟨q, ?_, ?_⟩
    · rw [List.map_cons, accesses_cons_next hs hread, hq]
      simp only [readWord_agenda_bus, Option.map_some, List.map_cons]
    · rw [hstate]
      simp

/-- The bytes of words that were all read. -/
theorem unpack_okData (f : Nat → Word) (ks : List Nat) :
    unpack (ks.map fun k => .okData (f k)) = some (ks.flatMap fun k => bytesOfWord (f k)) := by
  induction ks with
  | nil => rfl
  | cons k ks ih => simp only [List.map_cons, unpack, ih, List.flatMap_cons]

/-- The bytes of a word read are the register's (R62). -/
theorem bytesOfWord_readWord (s : State) (r : ByteReg) (i : Nat) :
    bytesOfWord (s.readWord r i) = [s.readByte r i, s.readByte r (i + 1), s.readByte r (i + 2), s.readByte r (i + 3)] :=
  bytesOfWord_le32 _ _ _ _

/-- Four bytes at a time, all bytes. -/
theorem flatMap_range_four {α : Type} (f : Nat → α) (n : Nat) :
    ((List.range n).flatMap fun k => [f (4 * k), f (4 * k + 1), f (4 * k + 2), f (4 * k + 3)]) =
      (List.range (4 * n)).map f := by
  induction n with
  | zero => rfl
  | succ n ih =>
    rw [List.range_succ, List.flatMap_append, ih, Nat.mul_succ]
    simp [List.range_succ]

/-- The words below a register's size lie inside it. -/
theorem word_inside {r : ByteReg} {k n : Nat} (hn : n ≤ r.size) (hk : k ∈ List.range (n / 4)) : 4 * k + 4 ≤ r.size := by
  have hlt := List.mem_range.1 hk
  omega

/-- Settles O59: the words read are the register's, and their bytes its bytes. -/
theorem readBytesScriptReturnsTheRegister : Obligations.ReadBytesScriptReturnsTheRegister := by
  unfold Obligations.ReadBytesScriptReturnsTheRegister
  intro s r
  obtain ⟨q, hq, hstate⟩ := accesses_readAccess (r := r) (ks := List.range (r.size / 4))
    (fun k => word_inside (Nat.le_refl r.size)) (p := ⟨s, [], []⟩) rfl
  have hsize : 4 * (r.size / 4) = r.size := Nat.mul_div_cancel' (Nat.dvd_of_mod_eq_zero r.size_mod_four)
  have hne : List.range (r.size / 4) ≠ [] := by
    have hfour := r.four_le_size
    rw [Ne, List.range_eq_nil]
    omega
  refine ⟨q, ?_, ?_⟩
  · have hrun : (Progress.mk s [] []).accesses (HostLine.rdb r).accesses = _ := hq
    rw [runScript_rdb, hrun, Option.map_some, rdbResult, unpack_okData]
    simp only [bytesOfWord_readWord]
    rw [flatMap_range_four (s.readByte r), hsize]
  · rwa [if_neg hne] at hstate

/-! ## `LDB` -/

/-- The write of word `k` of a byte string to a byte-array register. -/
def loadAccess (r : ByteReg) (bs : Bytes) (k : Nat) : Access :=
  .write ((Reg.array r).offset + 4 * k) 4 (wordAt bs k)

/-- The state after the write of word `k`, no action left. -/
def State.loadWord (r : ByteReg) (bs : Bytes) (s : State) (k : Nat) : State :=
  { s.writeWord r (4 * k) (wordAt bs k) with agenda := [], bus := .ok }

/-- Word writes of a byte-array register at an idle block are accepted one by one. -/
theorem accesses_loadAccess {r : ByteReg} (bs : Bytes) {ks : List Nat} (hks : ∀ k ∈ ks, 4 * k + 4 ≤ r.size)
    {p : Progress} (hs : p.sched = []) (hb : p.state.busy = false) :
    ∃ q, p.accesses (ks.map (loadAccess r bs)) = some (List.replicate ks.length .ok, q) ∧
      q.state = ks.foldl (State.loadWord r bs) p.state := by
  induction ks generalizing p with
  | nil => exact ⟨p, rfl, rfl⟩
  | cons k ks ih =>
    obtain ⟨hk, hrest⟩ := List.forall_mem_cons.1 hks
    have hwrite : hostAccess (loadAccess r bs k) p.state =
        .next ((p.state.writeWord r (4 * k) (wordAt bs k)).respond .ok) :=
      hostAccess_write_accepted (busTarget_array r k hk) hb rfl
    obtain ⟨q, hq, hstate⟩ := ih hrest (p := ⟨p.state.loadWord r bs k, [], p.taken ++ [.host (loadAccess r bs k)]⟩) rfl
      ((State.writeWord_busy p.state r _ _).trans hb)
    exact ⟨q, (accesses_cons_next hs hwrite _).trans (congrArg (Option.map _) hq), hstate⟩

/-- Word `k` of a byte string holds its bytes `4k` to `4k+3` (R62). -/
theorem byteOfWord_wordAt (bs : Bytes) (k : Nat) :
    byteOfWord (wordAt bs k) 0 = bs.getD (4 * k) 0 ∧ byteOfWord (wordAt bs k) 1 = bs.getD (4 * k + 1) 0 ∧
    byteOfWord (wordAt bs k) 2 = bs.getD (4 * k + 2) 0 ∧ byteOfWord (wordAt bs k) 3 = bs.getD (4 * k + 3) 0 := by
  have hbytes : bytesOfWord (wordAt bs k) = _ := bytesOfWord_le32 _ _ _ _
  simpa only [bytesOfWord, List.cons.injEq, and_true] using hbytes

theorem readByte_loadWord_same {s : State} (hm : Memory.wf s.pw) {r : ByteReg} {bs : Bytes} {k i : Nat}
    (hk : 4 * k + 4 ≤ r.size) (hlo : 4 * k ≤ i) (hhi : i < 4 * k + 4) :
    (s.loadWord r bs k).readByte r i = bs.getD i 0 := by
  obtain ⟨h0, h1, h2, h3⟩ := readByte_writeWord_same hm (by omega : 4 * k + 3 < r.size) (wordAt bs k)
  obtain ⟨b0, b1, b2, b3⟩ := byteOfWord_wordAt bs k
  rw [State.loadWord, readByte_agenda_bus]
  rcases (by omega : i = 4 * k ∨ i = 4 * k + 1 ∨ i = 4 * k + 2 ∨ i = 4 * k + 3) with rfl | rfl | rfl | rfl
  · exact h0.trans b0
  · exact h1.trans b1
  · exact h2.trans b2
  · exact h3.trans b3

theorem readByte_loadWord_other (s : State) {r q : ByteReg} {bs : Bytes} {k i : Nat}
    (h : ¬ (q = r ∧ 4 * k ≤ i ∧ i < 4 * k + 4)) : (s.loadWord r bs k).readByte q i = s.readByte q i := by
  rw [State.loadWord, readByte_agenda_bus, readByte_writeWord_other _ _ h]

/-- What the first `n` words of a load have done: the bytes loaded, every other byte, and everything else. -/
structure Loaded (s : State) (r : ByteReg) (bs : Bytes) (n : Nat) (t : State) : Prop where
  pwCanonical : Memory.wf t.pw
  inside : ∀ i, i < 4 * n → t.readByte r i = bs.getD i 0
  outside : ∀ (q : ByteReg) (i : Nat), ¬ (q = r ∧ i < 4 * n) → t.readByte q i = s.readByte q i
  frame : t = { s with
    agenda := (if n = 0 then s.agenda else []), bus := (if n = 0 then s.bus else .ok)
    pw := t.pw, mseed := t.mseed, tseed := t.tseed, kfh := t.kfh, ckey := t.ckey, iv := t.iv }

theorem loaded_zero {s : State} (hm : Memory.wf s.pw) (r : ByteReg) (bs : Bytes) : Loaded s r bs 0 s where
  pwCanonical := hm
  inside := fun i hi => absurd hi (by omega)
  outside := fun _ _ _ => rfl
  frame := rfl

/-- One more word. -/
theorem Loaded.succ {s t : State} {r : ByteReg} {bs : Bytes} {n : Nat} (h : Loaded s r bs n t)
    (hn : 4 * n + 4 ≤ r.size) : Loaded s r bs (n + 1) (t.loadWord r bs n) where
  pwCanonical := writeWord_pw_wf t h.pwCanonical r (4 * n) (wordAt bs n)
  inside := fun i hi => by
    by_cases hlo : 4 * n ≤ i
    · exact readByte_loadWord_same h.pwCanonical hn hlo (by omega)
    · rw [readByte_loadWord_other t fun hc => hlo hc.2.1]
      exact h.inside i (by omega)
  outside := fun q i hq => by
    rw [readByte_loadWord_other t fun hc => hq ⟨hc.1, by omega⟩]
    exact h.outside q i fun hc => hq ⟨hc.1, by omega⟩
  frame := by
    rw [State.loadWord, writeWord_frame, h.frame]
    simp

theorem loaded_foldl {s : State} (hm : Memory.wf s.pw) {r : ByteReg} (bs : Bytes) {n : Nat} (hn : 4 * n ≤ r.size) :
    Loaded s r bs n ((List.range n).foldl (State.loadWord r bs) s) := by
  induction n with
  | zero => exact loaded_zero hm r bs
  | succ n ih =>
    rw [List.range_succ, List.foldl_append]
    exact (ih (by omega)).succ hn

/-- The padding of `LDB` (R103): whole words, and zeros after the bytes. -/
theorem padToWord_length (bs : Bytes) : 4 * ((padToWord bs).length / 4) = (padToWord bs).length := by
  simp only [padToWord, List.length_append, List.length_replicate]
  omega

theorem padToWord_getD (bs : Bytes) (i : Nat) : (padToWord bs).getD i 0 = bs.getD i 0 := by
  rcases Nat.lt_or_ge i bs.length with hi | hi
  · exact List.getD_append _ _ _ _ hi
  · rw [padToWord, List.getD_append_right _ _ _ _ hi, List.getD_eq_default _ _ hi,
      List.getD_eq_getElem?_getD, List.getElem?_getD_replicate_default_eq]

theorem padToWord_words_eq_zero_iff (bs : Bytes) : (padToWord bs).length / 4 = 0 ↔ bs = [] := by
  rw [← List.length_eq_zero_iff, padToWord, List.length_append, List.length_replicate]
  omega

/-- Settles O53: the words are written one by one, each its four bytes and nothing else (`Loaded.succ`). -/
theorem loadBytesScriptFillsTheRegister : Obligations.LoadBytesScriptFillsTheRegister := by
  unfold Obligations.LoadBytesScriptFillsTheRegister
  intro s r bs hm hb hwf
  have hlen : (padToWord bs).length ≤ r.size := of_decide_eq_true hwf
  have hpad := padToWord_length bs
  obtain ⟨q, hq, hstate⟩ := accesses_loadAccess (r := r) (padToWord bs)
    (ks := List.range ((padToWord bs).length / 4)) (fun k => word_inside hlen) (p := ⟨s, [], []⟩) rfl hb
  have hl := loaded_foldl hm (r := r) (padToWord bs) (hpad.trans_le hlen)
  rw [← hstate] at hl
  refine ⟨q, q.state, ?_, rfl, fun i hi => ?_, fun p i hp => hl.outside p i (by rwa [hpad]), ?_⟩
  · have hrun : (Progress.mk s [] []).accesses (HostLine.ldb r bs).accesses = _ := hq
    rw [runScript_ldb, hrun, List.length_range]
    rfl
  · rw [hl.inside i (hpad.symm ▸ hi), padToWord_getD]
  · simpa only [padToWord_words_eq_zero_iff] using hl.frame

end Sys2Proof.Machine
end

section
/-! Every effect of `Effect` keeps the invariant of a derivation in flight (R131 to R134, R174), and the statement of it. -/

namespace Sys2Proof.Machine

/-- The invariant speaks of three phases alone. -/
theorem DerivationInv.of_phase {s : State} (h1 : s.phase ≠ .stretch) (h2 : s.phase ≠ .final) (h3 : s.phase ≠ .select) :
    DerivationInv s where
  lanes h := absurd h h1
  joined h := absurd h h2
  resolved h := absurd h h3

theorem derivationInv_of_idle {s : State} (hp : s.phase = .idle) : DerivationInv s := by
  apply DerivationInv.of_phase <;> simp [hp]

theorem DerivationInv.agenda {s : State} (h : DerivationInv s) (l : List Action) : DerivationInv { s with agenda := l } :=
  { h with }

theorem DerivationInv.respond {s : State} (h : DerivationInv s) (r : Response) : DerivationInv (s.respond r) :=
  { h with }

theorem DerivationInv.accepted {s : State} (h : DerivationInv s) : DerivationInv s.accepted := { h with }

theorem DerivationInv.recordError {s : State} (h : DerivationInv s) (e : ErrorCode) (info : Byte) :
    DerivationInv (s.recordError e info) :=
  { h with }

/-- Issue of `OPEN` (R173): a supplied key waits in `KEYTMP`, a derived one is still to come. -/
theorem derivationInv_openIssue (s : State) (ks : KeySource) (dir : Direction) : DerivationInv (s.openIssue ks dir) := by
  cases ks with
  | derived => apply DerivationInv.of_phase <;> exact nofun
  | supplied => exact { lanes := nofun, joined := nofun, resolved := fun _ => rfl }

/-- A host write of a register that stores something starts no command (R64). -/
theorem writeReg_phase {s t : State} {r : Reg} {i : Nat} {v : Word} (hw : s.writeReg r i v = some t) :
    t.phase = s.phase := by
  cases r <;> simp only [State.writeReg, reduceCtorEq, Option.some.injEq] at hw <;> subst hw
  case array a => exact State.writeWord_phase s a i v
  all_goals rfl

/-- At the fork no lane has applied anything yet (R124, R130). -/
theorem derivationInv_baseForkStep (s : State) : DerivationInv s.baseForkStep where
  lanes _ j := by
    have hcnt : s.baseForkStep.laneCnt[j] = s.rounds := getElem_laneCnt_replicate s.rounds j
    have hr : s.baseForkStep.rounds = s.rounds := rfl
    rw [hcnt, hr, Nat.sub_self]
    rfl
  joined := nofun
  resolved := nofun

/-- When both lanes have finished, steps 4 and 5 on the buffer give the derived key (R132, R133). -/
theorem DerivationInv.derivedKey_of_finished {s : State} (h : DerivationInv s) (hp : s.phase = .stretch)
    (h0 : s.laneCnt[0] = 0) (h1 : s.laneCnt[1] = 0) :
    s.derivedKey = finalKey Config.primitives s.mseed s.baseBuf := by
  refine compute_eq_finalKey _ _ _ _ _ _ _ fun j => ?_
  have hcnt : s.laneCnt[j] = 0 := by rw [laneCnt_eq_zero h0 h1, getElem_laneCnt_replicate]
  have hblk := h.lanes hp j
  rwa [hcnt] at hblk

theorem DerivationInv.joinStep {s : State} (h : DerivationInv s) (hp : s.phase = .stretch) (h0 : s.laneCnt[0] = 0)
    (h1 : s.laneCnt[1] = 0) : DerivationInv s.joinStep where
  lanes := nofun
  joined _ := (h.derivedKey_of_finished hp h0 h1).symm
  resolved := nofun

/-- An `OPEN` that has derived its key is one that was asked to (R40). -/
theorem derived_of_legalPhase_final {ks : KeySource} (h : legalPhase .openSession ks .final = true) : ks = .derived := by
  cases ks <;> simp [legalPhase] at h ⊢

/-- The final step of `OPEN` leaves the derived key where the select step looks for it (R134, R174). -/
theorem DerivationInv.finalStep {s : State} (h : DerivationInv s) (hm : MachineInv s) (hp : s.phase = .final)
    (ho : s.op.derives = true) : DerivationInv s.finalStep := by
  rcases derives_cases ho with ho | ho
  · rw [finalStep_derive ho]
    exact derivationInv_of_idle rfl
  · rw [finalStep_openSession ho]
    have hks : s.cKs = .derived := derived_of_legalPhase_final (ho ▸ hp ▸ hm.phaseLegal)
    refine { lanes := nofun, joined := nofun, resolved := fun _ => (h.joined hp).trans ?_ }
    simp only [State.resolvedKey, hks]
    rfl

theorem DerivationInv.sequencerStep {s t : State} (h : DerivationInv s) (hm : MachineInv s)
    (hs : s.sequencerStep = some t) : DerivationInv t := by
  rcases sequencerStep_cases hs with ⟨-, -, rfl⟩ | ⟨hp, -, h0, h1, rfl⟩ | ⟨hp, ho, rfl⟩ | ⟨-, -, rfl⟩ | ⟨-, -, rfl⟩ |
    ⟨-, -, rfl⟩
  · exact derivationInv_baseForkStep s
  · exact h.joinStep hp h0 h1
  · exact h.finalStep hm hp ho
  · exact derivationInv_of_idle (selectStep_phase s)
  · exact derivationInv_of_idle (kfFinishStep_phase s)
  · exact derivationInv_of_idle rfl

/-- The lane that steps has applied `Enc` once more, the other lane as often as before (R131). -/
theorem DerivationInv.laneEncStep {s : State} (h : DerivationInv s) (hm : MachineInv s) {j : LaneId}
    (hp : s.phase = .stretch) (hc : s.laneCnt[j] ≠ 0) : DerivationInv (s.laneEncStep j) where
  lanes _ k := by
    rw [laneEncStep_tseed, laneEncStep_baseOfKeyMaterial, laneEncStep_rounds]
    by_cases hkj : k = j
    · subst hkj
      have hdown := laneCnt_laneEncStep_toNat s k hc
      have hle := hm.laneCntBound k
      have hsucc : s.rounds.toNat - (s.laneEncStep k).laneCnt[k].toNat =
          s.rounds.toNat - s.laneCnt[k].toNat + 1 := by omega
      rw [laneBlk_laneEncStep_same, h.lanes hp k, hsucc, stretch_succ]
    · rw [laneBlk_laneEncStep_other s j k hkj, laneCnt_laneEncStep_other s j k hkj, h.lanes hp k]
  joined hf := by simp [hp] at hf
  resolved hs := by simp [hp] at hs

/-- Every action keeps the invariant of a derivation in flight. -/
theorem Effect.derivationInv {s t : State} {a : Action} (he : Effect s a t) (hm : MachineInv s) (h : DerivationInv s) :
    DerivationInv t := by
  cases he with
  | responded _ r => exact h.respond r
  | rejected _ e info _ => exact h.accepted.recordError e info
  | derive | kfread | clear | ended => apply DerivationInv.of_phase <;> exact nofun
  | openSession _ ks dir _ _ => exact derivationInv_openIssue _ ks dir
  | pushed _ b _ hp => apply DerivationInv.of_phase <;> simp [hp]
  | wrote off size v r i u hb _ hw => exact derivationInv_of_idle ((writeReg_phase hw).trans (hm.quiescent hb).phase)
  | sequenced _ hs => exact h.sequencerStep hm hs
  | laned j _ hs =>
    obtain ⟨hp, hc, rfl⟩ := laneStep_cases hs
    exact h.laneEncStep hm hp hc
  | passed _ _ => exact h
  | codec e info _ => exact h.recordError e.toErrorCode info
  | reset => exact derivationInv_reset.agenda s.agenda

/-- Settles O48: each effect of a step keeps the invariant (`Effect.derivationInv`). -/
theorem stepKeepsTheDerivationInvariant : Obligations.StepKeepsTheDerivationInvariant := by
  unfold Obligations.StepKeepsTheDerivationInvariant
  intro s t hm h hs
  obtain ⟨a, l, he, -⟩ := step_effect_at hs
  exact he.derivationInv (hm.agenda l) (h.agenda l)

end Sys2Proof.Machine
end

section
/-! SUPPORT. The two lanes' steps in either order (R131), and the statement about them. -/

namespace Sys2Proof.Machine

theorem exists_laneStep_iff (s : State) (j : LaneId) :
    (∃ t, s.laneStep j = some t) ↔ s.phase = .stretch ∧ 0 < s.laneCnt[j].toNat := by
  have hpos : 0 < s.laneCnt[j].toNat ↔ s.laneCnt[j] ≠ 0 := Nat.pos_iff_ne_zero.trans (BitVec.toNat_ne_iff_ne (y := 0))
  rw [hpos]
  constructor
  · rintro ⟨t, ht⟩
    obtain ⟨hp, hc, -⟩ := laneStep_cases ht
    exact ⟨hp, hc⟩
  · exact fun h => ⟨_, if_pos h⟩

/-- Two lanes, so what holds of lane 0 and of lane 1 holds of each (R137). -/
theorem forall_lane {P : LaneId → Prop} (h0 : P 0) (h1 : P 1) (j : LaneId) : P j := by
  rcases (by decide : ∀ j : LaneId, j = 0 ∨ j = 1) j with rfl | rfl
  · exact h0
  · exact h1

/-- A buffer is determined by its two halves (R126). -/
theorem eq_of_halves {a b : Bytes32} (h : ∀ j, half a j = half b j) : a = b := by
  rw [← joinHalves_half a, ← joinHalves_half b, h 0, h 1]

theorem eq_of_laneCnt {a b : Vector Word 2} (h : ∀ j : LaneId, a[j] = b[j]) : a = b :=
  Vector.ext fun i hi => h ⟨i, hi⟩

/-- A lane's block does not tell whether its own step or the other lane's came first (R131). -/
theorem laneBlk_laneEncStep_comm (s : State) {j k : LaneId} (hjk : j ≠ k) :
    ((s.laneEncStep j).laneEncStep k).laneBlk j = ((s.laneEncStep k).laneEncStep j).laneBlk j := by
  rw [laneBlk_laneEncStep_other _ k j hjk, laneBlk_laneEncStep_same, laneBlk_laneEncStep_same, laneEncStep_tseed,
    laneBlk_laneEncStep_other s k j hjk]

/-- Nor does its counter. -/
theorem laneCnt_laneEncStep_comm (s : State) {j k : LaneId} (hjk : j ≠ k) :
    ((s.laneEncStep j).laneEncStep k).laneCnt[j] = ((s.laneEncStep k).laneEncStep j).laneCnt[j] := by
  rw [laneCnt_laneEncStep_other _ k j hjk, laneCnt_laneEncStep_same, laneCnt_laneEncStep_same,
    laneCnt_laneEncStep_other s k j hjk]

/-- The frame of one step of each lane. -/
theorem laneEncStep_laneEncStep_frame (s : State) (j k : LaneId) :
    (s.laneEncStep j).laneEncStep k =
      { s with
        baseBuf := ((s.laneEncStep j).laneEncStep k).baseBuf
        laneCnt := ((s.laneEncStep j).laneEncStep k).laneCnt } := by
  simp only [State.laneEncStep]

/-- The lanes' steps may be taken in either order (R131). -/
theorem laneEncStep_comm (s : State) : (s.laneEncStep 0).laneEncStep 1 = (s.laneEncStep 1).laneEncStep 0 := by
  have hne : (0 : LaneId) ≠ 1 := by decide
  have hbuf : ((s.laneEncStep 0).laneEncStep 1).baseBuf = ((s.laneEncStep 1).laneEncStep 0).baseBuf :=
    eq_of_halves (forall_lane (laneBlk_laneEncStep_comm s hne) (laneBlk_laneEncStep_comm s hne.symm).symm)
  have hcnt : ((s.laneEncStep 0).laneEncStep 1).laneCnt = ((s.laneEncStep 1).laneEncStep 0).laneCnt :=
    eq_of_laneCnt (forall_lane (laneCnt_laneEncStep_comm s hne) (laneCnt_laneEncStep_comm s hne.symm).symm)
  rw [laneEncStep_laneEncStep_frame s 0 1, laneEncStep_laneEncStep_frame s 1 0, hbuf, hcnt]

/-- Settles O29: a lane's own block and counter move, the other's stay, and neither order of two steps shows. -/
theorem lanesStepIndependently : Obligations.LanesStepIndependently := by
  unfold Obligations.LanesStepIndependently
  refine ⟨exists_laneStep_iff, fun s t j hs => ?_, laneEncStep_comm⟩
  obtain ⟨-, hc, rfl⟩ := laneStep_cases hs
  exact ⟨laneBlk_laneEncStep_same s j, laneCnt_laneEncStep_toNat s j hc,
    fun k hk => ⟨laneBlk_laneEncStep_other s j k hk, laneCnt_laneEncStep_other s j k hk⟩, laneEncStep_frame s j⟩

end Sys2Proof.Machine
end

section
/-! The base hash on the registers (R122), the length check (R128), and the sequencer's steps of a derivation as equations of
whole states (R130, R133, R134), each followed by the statement about it. -/

namespace Sys2Proof.Machine

/-! ## The base hash -/

/-- The password operand is `PW_LEN` bytes long (R22). -/
theorem password_length (s : State) : s.password.length = s.pwLen.toNat := by
  rw [State.password, List.length_map, List.length_range]

/-- The password is absent exactly when `PW_LEN = 0` (R121). -/
theorem password_isEmpty_iff (s : State) : s.password.isEmpty = true ↔ s.pwLen = 0 := by
  rw [List.isEmpty_iff_length_eq_zero, password_length]
  exact BitVec.toNat_inj (y := 0)

/-- With any other `KF_LEN` than 0 the key-file hash is present (R121). -/
theorem keyFile_of_kfLen_ne_zero {s : State} (h : s.kfLen ≠ 0) : s.keyFile = some s.kfh :=
  if_neg fun hz => h (BitVec.eq_of_toNat_eq hz)

/-- R122, the first branch. -/
theorem baseOfKeyMaterial_password {s : State} (hk : s.kfLen = 0) : s.baseOfKeyMaterial = Config.hgp s.password := by
  rw [State.baseOfKeyMaterial, keyFile_of_kfLen_zero hk]
  rfl

/-- R122, the second branch. -/
theorem baseOfKeyMaterial_keyFile {s : State} (hk : s.kfLen ≠ 0) (hp : s.pwLen = 0) : s.baseOfKeyMaterial = s.kfh := by
  rw [State.baseOfKeyMaterial, keyFile_of_kfLen_ne_zero hk]
  exact if_pos ((password_isEmpty_iff s).2 hp)

/-- R122, the third branch. -/
theorem baseOfKeyMaterial_both {s : State} (hk : s.kfLen ≠ 0) (hp : s.pwLen ≠ 0) :
    s.baseOfKeyMaterial = Config.hds ((Config.hgp s.password).toList ++ s.kfh.toList) := by
  rw [State.baseOfKeyMaterial, keyFile_of_kfLen_ne_zero hk]
  exact if_neg fun he => hp ((password_isEmpty_iff s).1 he)

/-- The tests are made in this order (R122). -/
theorem baseOfKeyMaterial_eq (s : State) :
    s.baseOfKeyMaterial =
      if s.kfLen = 0 then Config.hgp s.password
      else if s.pwLen = 0 then s.kfh
      else Config.hds ((Config.hgp s.password).toList ++ s.kfh.toList) := by
  split_ifs with hk hp
  · exact baseOfKeyMaterial_password hk
  · exact baseOfKeyMaterial_keyFile hk hp
  · exact baseOfKeyMaterial_both hk hp

/-- Settles O27, one branch at a time. -/
theorem baseHashTakesExactlyOneBranch : Obligations.BaseHashTakesExactlyOneBranch := by
  unfold Obligations.BaseHashTakesExactlyOneBranch
  refine fun s => ⟨baseOfKeyMaterial_password, fun hk => ?_, fun hk => ?_, password_length s⟩
  · exact baseOfKeyMaterial_keyFile (by simp [hk])
  · exact baseOfKeyMaterial_both (by simp [hk])

/-! ## The length check -/

theorem lengthsLegal_iff (s : State) :
    s.lengthsLegal = true ↔ (s.kfLen.toNat = 0 ∨ s.kfLen.toNat = 32) ∧ s.pwLen.toNat ≤ Config.pwMax := by
  simp only [State.lengthsLegal, Bool.and_eq_true, Bool.or_eq_true, beq_iff_eq, decide_eq_true_eq]

/-- The commands that derive a key, which are those whose lengths are checked (R91 step 4, R128). -/
def derivesKey : Instr → Prop
  | .derive | .openSession .derived _ => True
  | _ => False

/-- Bad lengths are rejected at issue (R128, R227). -/
theorem exec_badLen {s : State} {i : Instr} (hi : derivesKey i) (hb : s.busy = false) (hl : s.lengthsLegal = false) :
    exec i s = .next (s.accepted.reject .badLen s.kfLen) := by
  have hbad : s.accepted.lengthsLegal = false := hl
  match i, hi with
  | .derive, _ => rw [exec, execDerive, commandWrite_idle hb, if_neg (by simp [hbad])]; rfl
  | .openSession .derived _, _ => rw [exec, execOpenSession, commandWrite_idle hb, if_pos ⟨rfl, hbad⟩]; rfl

/-- Legal lengths issue the command, in its phase `P_BASE` (R129, R173). -/
theorem exec_derivesKey_issues {s : State} {i : Instr} (hi : derivesKey i) (hb : s.busy = false)
    (hl : s.lengthsLegal = true) : ∃ t, exec i s = .next t ∧ t.busy = true ∧ t.phase = .base :=
  match i, hi with
  | .derive, _ => ⟨_, exec_derive_issues hb hl, rfl, rfl⟩
  | .openSession .derived dir, _ => ⟨_, exec_openSession_issues hb (fun _ => hl) dir, rfl, rfl⟩

/-- Settles O22: the three commands are those of `derivesKey`. -/
theorem badLengthsAreRejectedAtIssue : Obligations.BadLengthsAreRejectedAtIssue := by
  unfold Obligations.BadLengthsAreRejectedAtIssue
  refine ⟨lengthsLegal_iff, fun s hb i hi => ?_⟩
  have hd : derivesKey i := by
    simp only [List.mem_cons, List.not_mem_nil, or_false] at hi
    rcases hi with rfl | rfl | rfl <;> trivial
  rw [← lengthsLegal_iff]
  exact ⟨fun hl => exec_badLen hd hb (Bool.eq_false_iff.2 hl), exec_derivesKey_issues hd hb⟩

/-! ## The sequencer -/

section
variable {s : State}

theorem sequencerStep_base (hp : s.phase = .base) (ho : s.op.derives = true) :
    s.sequencerStep = some s.baseForkStep := by
  simp only [State.sequencerStep, hp, ho, if_true]

/-- The join waits for both lanes (R133). -/
theorem sequencerStep_stretch (hp : s.phase = .stretch) (ho : s.op.derives = true) :
    s.sequencerStep = if s.laneCnt[0] = 0 ∧ s.laneCnt[1] = 0 then some s.joinStep else none := by
  simp only [State.sequencerStep, hp, ho, true_and]

theorem sequencerStep_final (hp : s.phase = .final) (ho : s.op.derives = true) :
    s.sequencerStep = some s.finalStep := by
  simp only [State.sequencerStep, hp, ho, if_true]

/-- The final step of `DERIVE` writes `CKEY`; of the hidden state only `KEYTMP` was not zero already (R134, R225). -/
theorem MachineInv.finalStep_eq (h : MachineInv s) (hp : s.phase = .final) (ho : s.op = .derive) :
    s.finalStep =
      { s with ckey := s.keyTmp, keyTmp := zero32, done := true, busy := false, op := .none, phase := .idle } := by
  obtain ⟨hks, hdir⟩ := h.openFields (by simp [ho])
  have hclr := h.clearField (by simp [ho])
  have hbuf := h.baseBufZero (by simp [hp])
  have hcnt := h.laneCntZero (by simp [hp])
  obtain ⟨hall, hend⟩ := h.streamOnlyKfread (by simp [ho])
  rw [finalStep_derive ho]
  simp only [State.succeed, State.endCommand, hks, hdir, hclr, hbuf, hcnt, hall, hend]

end

/-- Settles O33, phase by phase. -/
theorem sequencerStepsOfTheDerivation : Obligations.SequencerStepsOfTheDerivation := by
  unfold Obligations.SequencerStepsOfTheDerivation
  intro s h hop
  have ho : s.op.derives = true := by rcases hop with ho | ho <;> rw [ho] <;> rfl
  refine ⟨fun hp => ?_, fun hp hc => ?_, fun hp hc => ?_, fun hp hd => ?_, fun hp hd => ?_⟩
  · rw [sequencerStep_base hp ho, ← baseOfKeyMaterial_eq]
    rfl
  · rw [sequencerStep_stretch hp ho, if_pos hc]
    rfl
  · rw [sequencerStep_stretch hp ho, if_neg hc]
  · rw [sequencerStep_final hp ho, h.finalStep_eq hp hd]
  · rw [sequencerStep_final hp ho, finalStep_openSession hd]

end Sys2Proof.Machine
end

section
/-! While a command is in flight the outside world neither ends it nor brings it nearer its end, but for a reset (R68, R135):
the statements about the count of internal steps still to come and about the step that ends a `DERIVE`. -/

namespace Sys2Proof.Machine

/-- A step at a busy block is reset, a step of the block's own agents, or it leaves the command in flight where it is. -/
theorem Effect.progress {s t : State} {a : Action} (he : Effect s a t) (hb : s.busy = true) :
    a = .reset ∨ s.internalStep a = some t ∨ t.op = s.op ∧ t.internalWork = s.internalWork := by
  cases he with
  | responded | pushed | passed | codec => exact .inr (.inr ⟨rfl, rfl⟩)
  | ended _ e _ _ hp => exact .inr (.inr ⟨rfl, by simp only [State.internalWork, hp]⟩)
  | rejected _ _ _ hi | derive _ hi _ | kfread _ hi | openSession _ _ _ hi _ | clear _ _ _ _ hi
  | wrote _ _ _ _ _ _ hi _ _ => exact absurd (hi.symm.trans hb) Bool.false_ne_true
  | sequenced _ hs => exact .inr (.inl hs)
  | laned j _ hs => exact .inr (.inl hs)
  | reset => exact .inl rfl

theorem internal_of_internalStep {s t : State} {a : Action} (h : s.internalStep a = some t) : a.internal = true := by
  cases a with
  | sequencer | lane => rfl
  | host | codec | reset => cases h

/-- Settles O45: each enabled internal step is one less to come, no other action counts, and one is always enabled. -/
theorem internalStepsCountDownToCompletion : Obligations.InternalStepsCountDownToCompletion := by
  unfold Obligations.InternalStepsCountDownToCompletion
  refine ⟨fun s t a _ hs => internalStep_internalWork hs, fun s t a _ hb ha hr hact => ?_,
    fun s h hb hk => h.exists_internalStep hb hk⟩
  rcases (act_effect hact).progress hb with hreset | hs | ⟨-, hw⟩
  · exact absurd hreset hr
  · exact absurd ((internal_of_internalStep hs).symm.trans ha) Bool.false_ne_true.symm
  · exact hw

/-- Every internal step of a `DERIVE` but its final step moves the phase and the datapath alone (R130 to R134). -/
theorem internalStep_of_derive {s t : State} {a : Action} (ho : s.op = .derive) (hs : s.internalStep a = some t) :
    (∃ p buf cnt key, t = { s with phase := p, baseBuf := buf, laneCnt := cnt, keyTmp := key }) ∨
      s.phase = .final ∧ t = s.finalStep := by
  cases a with
  | sequencer =>
    rcases sequencerStep_cases hs with ⟨-, -, rfl⟩ | ⟨-, -, -, -, rfl⟩ | ⟨hp, -, rfl⟩ | ⟨-, hq, -⟩ | ⟨-, hq, -⟩ |
      ⟨-, hq, -⟩
    · exact .inl ⟨.stretch, _, _, s.keyTmp, rfl⟩
    · exact .inl ⟨.final, _, s.laneCnt, _, rfl⟩
    · exact .inr ⟨hp, rfl⟩
    all_goals exact Op.noConfusion (ho.symm.trans hq)
  | lane j =>
    obtain ⟨-, -, rfl⟩ := laneStep_cases hs
    exact .inl ⟨s.phase, _, _, s.keyTmp, laneEncStep_frame s j⟩
  | host | codec | reset => cases hs

/-- What the final step of a `DERIVE` commits is the derived key (R134, R135). -/
theorem DerivationInv.finalStep_eq {s : State} (h : DerivationInv s) (hm : MachineInv s) (hp : s.phase = .final)
    (ho : s.op = .derive) :
    s.finalStep =
      { s with done := true, busy := false, op := .none, phase := .idle, keyTmp := zero32, ckey := s.derivedKey } := by
  rw [hm.finalStep_eq hp ho, h.joined hp]

/-- Whoever steps, only reset and the final step end a `DERIVE` (R125, R135). -/
theorem Effect.derive_ends {s t : State} {a : Action} (he : Effect s a t) (hm : MachineInv s) (h : DerivationInv s)
    (ho : s.op = .derive) (hne : t.op ≠ .derive) :
    a = .reset ∨
      t = { s with
        done := true, busy := false, op := .none, phase := .idle, keyTmp := zero32, ckey := s.derivedKey } := by
  rcases he.progress (hm.busyIffOp.2 (by simp [ho])) with ha | hs | ⟨hop, -⟩
  · exact .inl ha
  · rcases internalStep_of_derive ho hs with ⟨p, buf, cnt, key, rfl⟩ | ⟨hp, rfl⟩
    · exact absurd ho hne
    · exact .inr (h.finalStep_eq hm hp ho)
  · exact absurd (hop.trans ho) hne

/-- Every step is an effect at the state without the first action of its agenda. -/
theorem step_effect_tail {s t : State} (h : step s = .next t) :
    ∃ a, Effect { s with agenda := s.agenda.tail } a t ∧ (a = .reset → ∃ rest, s.agenda = .reset :: rest) := by
  rcases step_effect h with ⟨a, rest, ha, he⟩ | ⟨ha, a, hint, he⟩
  · refine ⟨a, by rwa [ha, List.tail_cons], ?_⟩
    rintro rfl
    exact ⟨rest, ha⟩
  · refine ⟨a, by rwa [ha, List.tail_nil, ← ha], ?_⟩
    rintro rfl
    rcases hint with h | ⟨j, h⟩ <;> cases h

/-- Settles O37: the step that ends a `DERIVE` is reset or the final step (`Effect.derive_ends`). -/
theorem everyScheduleDerivesTheSameKey : Obligations.EveryScheduleDerivesTheSameKey := by
  unfold Obligations.EveryScheduleDerivesTheSameKey
  intro s t hm h ho hs hne
  obtain ⟨a, he, hreset⟩ := step_effect_tail hs
  exact (he.derive_ends (hm.agenda _) (h.agenda _) ho hne).imp_left hreset

end Sys2Proof.Machine
end

section
/-! A whole `DERIVE`, from its issue at an idle block to its completion, by turns of the block's own agents (R135): first the
invariant of such a run, then the two statements, about the empty agenda and about any fair one. -/

namespace Sys2Proof.Machine

/-- The state `s` with a `DERIVE` in flight: besides the flags only the phase and the datapath differ. -/
def State.deriving (s : State) (p : Phase) (buf : Bytes32) (cnt : Vector Word 2) (key : Bytes32) : State :=
  { s with
    bus := .ok, done := false, busy := true, op := .derive, phase := p, baseBuf := buf, laneCnt := cnt, keyTmp := key }

/-- The state in which a `DERIVE` issued at the idle state `s` ends (R120). -/
def State.deriveDone (s : State) : State := { s with bus := .ok, done := true, ckey := s.derivedKey }

/-- A `DERIVE` issued at the idle state `s` is in flight in `u`. -/
structure DeriveInFlight (s u : State) : Prop where
  inv : MachineInv u
  derivation : DerivationInv u
  frame : ∃ p buf cnt key, u = s.deriving p buf cnt key

/-- A `DERIVE` issued at the idle state `s` is in flight in `u`, or has just ended there. -/
def DeriveRuns (s u : State) : Prop := DeriveInFlight s u ∨ u = s.deriveDone

section
variable {s u v : State}

theorem DeriveInFlight.op (h : DeriveInFlight s u) : u.op = .derive := by
  obtain ⟨p, buf, cnt, key, rfl⟩ := h.frame
  rfl

theorem DeriveInFlight.busy (h : DeriveInFlight s u) : u.busy = true := by
  obtain ⟨p, buf, cnt, key, rfl⟩ := h.frame
  rfl

theorem DeriveInFlight.ckey (h : DeriveInFlight s u) : u.ckey = s.ckey := by
  obtain ⟨p, buf, cnt, key, rfl⟩ := h.frame
  rfl

theorem DeriveInFlight.agenda (h : DeriveInFlight s u) : u.agenda = s.agenda := by
  obtain ⟨p, buf, cnt, key, rfl⟩ := h.frame
  rfl

/-- A `DERIVE` reads no stream (R40). -/
theorem DeriveInFlight.phase (h : DeriveInFlight s u) : u.phase ≠ .kfStream := fun hp => by
  have hop : u.phase.belongsTo u.op := belongsTo_of_legalPhase h.inv.phaseLegal
  rw [hp, h.op] at hop
  cases hop

theorem DeriveInFlight.exists_internalStep (h : DeriveInFlight s u) : ∃ a t, u.internalStep a = some t :=
  h.inv.exists_internalStep h.busy h.phase

theorem DeriveInFlight.internalWork_pos (h : DeriveInFlight s u) : u.internalWork ≠ 0 := by
  obtain ⟨a, t, ht⟩ := h.exists_internalStep
  rw [← internalStep_internalWork ht]
  exact Nat.succ_ne_zero _

/-- The issue (R129). -/
theorem deriveInFlight_issue (h : MachineInv s) (hb : s.busy = false) (hl : s.lengthsLegal = true) :
    DeriveInFlight s (s.accepted.issue .derive .base .derived .encrypt ⟨false, false, false⟩) where
  inv := (exec_effect (instrAccess .derive) (exec_derive_issues hb hl)).machineInv h
  derivation := by apply DerivationInv.of_phase <;> exact nofun
  frame := by
    have q := h.quiescent hb
    refine ⟨.base, s.baseBuf, s.laneCnt, s.keyTmp, ?_⟩
    simp only [State.issue, State.accepted, State.deriving, q.cKs, q.cDir, q.cClr]

/-- The final step of a `DERIVE` leaves the state it was issued at, with the derived key in `CKEY` (R134, R46). -/
theorem DeriveInFlight.finalStep (h : DeriveInFlight s u) (q : Quiescent s) (hp : u.phase = .final) :
    u.finalStep = s.deriveDone := by
  have hbuf := h.inv.baseBufZero (by simp [hp])
  have hcnt := h.inv.laneCntZero (by simp [hp])
  rw [h.derivation.finalStep_eq h.inv hp h.op]
  obtain ⟨p, buf, cnt, key, rfl⟩ := h.frame
  obtain rfl : buf = zero32 := hbuf
  obtain rfl : cnt = Vector.replicate 2 0 := hcnt
  have hkey : (s.deriving p zero32 (Vector.replicate 2 0) key).derivedKey = s.derivedKey := rfl
  rw [hkey, State.deriveDone]
  simp only [State.deriving, q.busy, q.op, q.phase, q.baseBuf, q.laneCnt, q.keyTmp]

theorem DerivationInv.internalStep {a : Action} (h : DerivationInv u) (hm : MachineInv u)
    (hs : u.internalStep a = some v) : DerivationInv v := by
  cases a with
  | sequencer => exact h.sequencerStep hm hs
  | lane j =>
    obtain ⟨hp, hc, rfl⟩ := laneStep_cases hs
    exact h.laneEncStep hm hp hc
  | host | codec | reset => cases hs

/-- An internal step keeps a `DERIVE` in flight, or ends it with the derived key. -/
theorem DeriveInFlight.internalStep (h : DeriveInFlight s u) (q : Quiescent s) {a : Action}
    (hs : u.internalStep a = some v) : DeriveRuns s v := by
  rcases internalStep_of_derive h.op hs with hmove | ⟨hp, rfl⟩
  · refine .inl ⟨h.inv.internalStep hs, h.derivation.internalStep h.inv hs, ?_⟩
    obtain ⟨p, buf, cnt, key, rfl⟩ := hmove
    obtain ⟨-, -, -, -, rfl⟩ := h.frame
    exact ⟨p, buf, cnt, key, rfl⟩
  · exact .inr (h.finalStep q hp)

/-! ## With an empty agenda -/

/-- If any agent of the block has a step enabled, the block's own step is one of those (log 2). -/
theorem exists_internalStep_autoStep (h : ∃ a t, s.internalStep a = some t) :
    ∃ a, s.internalStep a = some s.autoStep := by
  unfold State.autoStep
  cases hs : s.sequencerStep with
  | some t => exact ⟨.sequencer, hs⟩
  | none =>
    cases h0 : s.laneStep 0 with
    | some t => exact ⟨.lane 0, h0⟩
    | none =>
      cases h1 : s.laneStep 1 with
      | some t => exact ⟨.lane 1, h1⟩
      | none =>
        obtain ⟨a, t, ht⟩ := h
        have hnone : s.internalStep a = none := by
          cases a with
          | sequencer => exact hs
          | lane j => exact forall_lane (P := fun j => s.laneStep j = none) h0 h1 j
          | host | codec | reset => rfl
        exact absurd (hnone.symm.trans ht) nofun

theorem DeriveRuns.eq_deriveDone (h : DeriveRuns s u) (hw : u.internalWork = 0) : u = s.deriveDone :=
  h.resolve_left fun hu => hu.internalWork_pos hw

theorem Quiescent.deriveDone (q : Quiescent s) : Quiescent s.deriveDone := { q with }

/-- A `DERIVE` with `n` internal steps to come ends after exactly `n` steps, and `CKEY` changes only with the last. -/
theorem DeriveRuns.stateAfter_eq (q : Quiescent s) (hs : s.agenda = []) {n : Nat} (h : DeriveRuns s u)
    (hw : u.internalWork = n) :
    stateAfter n u = some s.deriveDone ∧
      ∀ k, k < n → ∃ t, stateAfter k u = some t ∧ t.busy = true ∧ t.ckey = s.ckey := by
  induction n generalizing u with
  | zero => exact ⟨congrArg some (h.eq_deriveDone hw), nofun⟩
  | succ n ih =>
    rcases h with h | rfl
    · obtain ⟨a, ha⟩ := exists_internalStep_autoStep h.exists_internalStep
      have hstep := step_nil (h.agenda.trans hs)
      have hn : u.autoStep.internalWork = n := Nat.succ.inj ((internalStep_internalWork ha).trans hw)
      obtain ⟨hend, hbefore⟩ := ih (h.internalStep q ha) hn
      refine ⟨(stateAfter_succ n hstep).trans hend, fun k hk => ?_⟩
      cases k with
      | zero => exact ⟨u, rfl, h.busy, h.ckey⟩
      | succ k =>
        obtain ⟨t, ht, htb, htc⟩ := hbefore k (Nat.lt_of_succ_lt_succ hk)
        exact ⟨t, (stateAfter_succ k hstep).trans ht, htb, htc⟩
    · exact absurd ((internalWork_idle q.deriveDone.phase).symm.trans hw) (Nat.succ_ne_zero n).symm

end

/-- Settles O36: a `DERIVE` just issued has `2·ROUNDS + 3` internal steps to come. -/
theorem deriveRunsToCompletion : Obligations.DeriveRunsToCompletion := by
  unfold Obligations.DeriveRunsToCompletion
  intro s h hb hl hs
  exact ⟨_, exec_derive_issues hb hl,
    DeriveRuns.stateAfter_eq (h.quiescent hb) hs (.inl (deriveInFlight_issue h hb hl)) rfl⟩

/-! ## Under any fair agenda -/

section
variable {s u : State}

/-- An idle block has no internal step (R40). -/
theorem Quiescent.internalStep (q : Quiescent u) (a : Action) : u.internalStep a = none := by
  cases a with
  | sequencer => simp only [State.internalStep, State.sequencerStep, q.phase]
  | lane j => exact if_neg fun h => Phase.noConfusion (q.phase.symm.trans h.1)
  | host | codec | reset => rfl

/-- At an idle block all turns of the block's own agents pass. -/
theorem Quiescent.runActions (q : Quiescent u) {as : List Action} (has : ∀ a ∈ as, a.internal = true) :
    u.runActions as = some { u with agenda := [] } := by
  induction as with
  | nil => exact runActions_nil u
  | cons a as ih =>
    obtain ⟨ha, has⟩ := List.forall_mem_cons.1 has
    have hact := act_internal ha u
    rw [q.internalStep a] at hact
    exact (runActions_cons hact as).trans (ih has)

/-- A turn of one of the block's own agents, whether it has a step enabled or not. -/
theorem DeriveRuns.turn (h : DeriveRuns s u) (q : Quiescent s) (a : Action) :
    DeriveRuns s ((u.internalStep a).getD u) := by
  cases hs : u.internalStep a with
  | none => exact h
  | some v =>
    rcases h with h | rfl
    · exact h.internalStep q hs
    · exact absurd ((q.deriveDone.internalStep a).symm.trans hs) nofun

theorem DeriveRuns.agenda (h : DeriveRuns s u) : u.agenda = s.agenda := by
  rcases h with h | rfl
  · exact h.agenda
  · rfl

theorem DeriveRuns.runActions (h : DeriveRuns s u) (q : Quiescent s) (hs : s.agenda = []) {as : List Action}
    (has : ∀ a ∈ as, a.internal = true) : ∃ t, u.runActions as = some t ∧ DeriveRuns s t := by
  induction as generalizing u with
  | nil =>
    refine ⟨u, ?_, h⟩
    rw [runActions_nil, ← h.agenda.trans hs]
  | cons a as ih =>
    obtain ⟨ha, has⟩ := List.forall_mem_cons.1 has
    obtain ⟨t, hrun, ht⟩ := ih (h.turn q a) has
    exact ⟨t, (runActions_cons (act_internal ha u) as).trans hrun, ht⟩

/-- As many fair stretches as there are internal steps to come end a `DERIVE`; further turns pass (R135, R273). -/
theorem DeriveRuns.runActions_fair (h : DeriveRuns s u) (q : Quiescent s) (hs : s.agenda = [])
    {stretches : List (List Action)} (hf : ∀ l ∈ stretches, fairRound l) (hlen : u.internalWork ≤ stretches.length) :
    u.runActions stretches.flatten = some s.deriveDone := by
  induction stretches generalizing u with
  | nil =>
    rw [h.eq_deriveDone (Nat.le_zero.1 hlen), List.flatten_nil, runActions_nil, ← hs]
    rfl
  | cons l more ih =>
    obtain ⟨hl, hmore⟩ := List.forall_mem_cons.1 hf
    rcases h with h | rfl
    · obtain ⟨t, hrun, ht⟩ := DeriveRuns.runActions (.inl h) q hs hl.1
      obtain ⟨t', hrun', -, -, hlt⟩ := runActions_fairRound hl h.inv h.busy h.phase
      obtain rfl : t = t' := Option.some.inj (hrun.symm.trans hrun')
      rw [List.flatten_cons, runActions_append, hrun]
      exact ih ht hmore (Nat.le_of_lt_succ (Nat.lt_of_lt_of_le hlt hlen))
    · rw [q.deriveDone.runActions fun a ha => ?_, ← hs]
      · rfl
      · obtain ⟨l', hl', ha⟩ := List.mem_flatten.1 ha
        exact (hf l' hl').1 a ha

end

/-- Settles O38: each fair stretch takes at least one of the `2·ROUNDS + 3` internal steps of a `DERIVE`. -/
theorem deriveCompletesUnderEveryFairSchedule : Obligations.DeriveCompletesUnderEveryFairSchedule := by
  unfold Obligations.DeriveCompletesUnderEveryFairSchedule
  intro s stretches h hb hl hlen hf
  have hs := h.agenda []
  have hissue := deriveInFlight_issue (s := { s with agenda := [] }) hs hb hl
  exact ⟨_, exec_derive_issues hb hl, DeriveRuns.runActions_fair (.inl hissue) (hs.quiescent hb) rfl hf hlen⟩

end Sys2Proof.Machine
end

section
/-! The functions of the normalizer (R151 to R155): digits, pairs of digits, and the rows of its table. -/

namespace Sys2Proof.Machine

/-! ## Hexadecimal decoding (R152) -/

theorem hexval_digit {b : Byte} (h : 0x30 ≤ b.toNat ∧ b.toNat ≤ 0x39) : hexval b = some (b.toNat - 0x30) := if_pos h

theorem hexval_lower {b : Byte} (h : 0x61 ≤ b.toNat ∧ b.toNat ≤ 0x66) : hexval b = some (b.toNat - 0x61 + 10) := by
  rw [hexval, if_neg (by omega), if_pos h]

theorem hexval_upper {b : Byte} (h : 0x41 ≤ b.toNat ∧ b.toNat ≤ 0x46) : hexval b = some (b.toNat - 0x41 + 10) := by
  rw [hexval, if_neg (by omega), if_neg (by omega), if_pos h]

/-- A digit's character lies in one of the three ranges, and its value is a nibble. -/
theorem hexval_eq_some {b : Byte} {v : Nat} (h : hexval b = some v) :
    ((0x30 ≤ b.toNat ∧ b.toNat ≤ 0x39) ∨ (0x61 ≤ b.toNat ∧ b.toNat ≤ 0x66) ∨ (0x41 ≤ b.toNat ∧ b.toNat ≤ 0x46)) ∧
      v < 16 := by
  unfold hexval at h
  split_ifs at h with hdigit hlower hupper <;> obtain rfl := Option.some.inj h
  · exact ⟨.inl hdigit, by omega⟩
  · exact ⟨.inr (.inl hlower), by omega⟩
  · exact ⟨.inr (.inr hupper), by omega⟩

/-- A pair is decoded when both characters are digits and what follows decodes. -/
theorem hexPairs_cons_eq_some_iff {hi lo : Byte} {t d : Bytes} :
    hexPairs (hi :: lo :: t) = some d ↔
      ∃ h l e, hexval hi = some h ∧ hexval lo = some l ∧ hexPairs t = some e ∧ BitVec.ofNat 8 (16 * h + l) :: e = d := by
  rw [hexPairs]
  cases hexval hi <;> cases hexval lo <;> cases hexPairs t <;> simp

theorem hexPairs_cons_eq_none_iff {hi lo : Byte} {t : Bytes} :
    hexPairs (hi :: lo :: t) = none ↔ hexval hi = none ∨ hexval lo = none ∨ hexPairs t = none := by
  rw [hexPairs]
  cases hexval hi <;> cases hexval lo <;> cases hexPairs t <;> simp

/-- Whole pairs fail to decode only for a character that is no digit. -/
theorem hexPairs_eq_none_iff : ∀ {t : Bytes}, t.length % 2 = 0 → (hexPairs t = none ↔ ∃ c ∈ t, hexval c = none)
  | [], _ => by simp [hexPairs]
  | [_], ht => absurd ht (by simp)
  | hi :: lo :: t, ht => by
    have ht' : t.length % 2 = 0 := by simp only [List.length_cons] at ht; omega
    rw [hexPairs_cons_eq_none_iff, hexPairs_eq_none_iff ht', List.exists_mem_cons_iff, List.exists_mem_cons_iff]

/-- Decoding halves the length. -/
theorem length_of_hexPairs : ∀ {t d : Bytes}, hexPairs t = some d → t.length = 2 * d.length
  | [], _, hd => by obtain rfl := Option.some.inj hd; rfl
  | [_], _, hd => nomatch hd
  | _ :: _ :: _, _, hd => by
    obtain ⟨_, _, _, -, -, he, rfl⟩ := hexPairs_cons_eq_some_iff.1 hd
    simp only [List.length_cons, length_of_hexPairs he]
    omega

/-- Byte `i` is decoded from characters `2i`, the high nibble, and `2i + 1`. -/
theorem getElem_of_hexPairs : ∀ {t d : Bytes}, hexPairs t = some d → ∀ (i : Nat) (hi : i < d.length), ∃ h l,
    hexval (t.getD (2 * i) 0) = some h ∧ hexval (t.getD (2 * i + 1) 0) = some l ∧ d[i] = BitVec.ofNat 8 (16 * h + l)
  | [], _, hd, i, hi => by obtain rfl := Option.some.inj hd; exact absurd hi (Nat.not_lt_zero i)
  | [_], _, hd, _, _ => nomatch hd
  | _ :: _ :: _, _, hd, i, hi => by
    obtain ⟨h, l, e, hh, hl, he, rfl⟩ := hexPairs_cons_eq_some_iff.1 hd
    cases i with
    | zero => exact ⟨h, l, hh, hl, rfl⟩
    | succ i => exact getElem_of_hexPairs he i (Nat.lt_of_succ_lt_succ hi)

/-- The conversion to 32 bytes changes no byte. -/
theorem toBytes32_eq_some_iff {s : Bytes} {d : Bytes32} : toBytes32 s = some d ↔ s = d.toList := by
  unfold toBytes32
  constructor
  · intro h
    split_ifs at h
    obtain rfl := Option.some.inj h
    rfl
  · rintro rfl
    exact dif_pos (by simp)

theorem exists_toBytes32 {s : Bytes} (hs : s.length = 32) : ∃ d, toBytes32 s = some d := ⟨_, dif_pos hs⟩

theorem hexDecode32_eq_some_iff {t : Bytes} {d : Bytes32} : hexDecode32 t = some d ↔ hexPairs t = some d.toList := by
  unfold hexDecode32
  cases hexPairs t <;> simp [toBytes32_eq_some_iff]

/-- Sixty-four characters fail to decode only for one that is no digit: what decodes is 32 bytes long. -/
theorem hexDecode32_eq_none_iff {t : Bytes} (ht : t.length = 64) :
    hexDecode32 t = none ↔ ∃ c ∈ t, hexval c = none := by
  rw [← hexPairs_eq_none_iff (by omega), hexDecode32]
  cases hd : hexPairs t with
  | none => simp
  | some d =>
    have hlen := length_of_hexPairs hd
    obtain ⟨d', hd'⟩ := exists_toBytes32 (s := d) (by omega)
    simp [hd']

/-- A character of a string, by its place. -/
theorem exists_mem_iff_getD {t : Bytes} {p : Byte → Prop} : (∃ c ∈ t, p c) ↔ ∃ i, i < t.length ∧ p (t.getD i 0) := by
  rw [List.exists_mem_iff_getElem]
  refine exists_congr fun i => ⟨fun ⟨hi, hp⟩ => ⟨hi, ?_⟩, fun ⟨hi, hp⟩ => ⟨hi, ?_⟩⟩
  · rwa [List.getD_eq_getElem t 0 hi]
  · rwa [List.getD_eq_getElem t 0 hi] at hp

/-- Settles O31: the three ranges of `hexval`, then `hexPairs` pair by pair. -/
theorem hexDecodeFailsExactlyOnANonDigit : Obligations.HexDecodeFailsExactlyOnANonDigit := by
  unfold Obligations.HexDecodeFailsExactlyOnANonDigit
  refine ⟨fun b => ⟨hexval_digit, hexval_lower, hexval_upper⟩, fun b => ⟨?_, ?_⟩, fun t ht => ⟨?_, fun d hd i hi => ?_⟩⟩
  · rintro ⟨v, hv⟩
    exact (hexval_eq_some hv).1
  · rintro (h | h | h)
    · exact ⟨_, hexval_digit h⟩
    · exact ⟨_, hexval_lower h⟩
    · exact ⟨_, hexval_upper h⟩
  · rw [hexDecode32_eq_none_iff ht, exists_mem_iff_getD, ht]
  · have hlen : i < d.toList.length := by rwa [Vector.length_toList]
    obtain ⟨h, l, hh, hl, hbyte⟩ := getElem_of_hexPairs (hexDecode32_eq_some_iff.1 hd) i hlen
    have hh16 := (hexval_eq_some hh).2
    have hl16 := (hexval_eq_some hl).2
    refine ⟨h, l, hh, hl, hh16, hl16, ?_⟩
    rw [← Vector.getElem_toList hlen, hbyte, BitVec.toNat_ofNat]
    omega

/-! ## The table (R153) -/

section
variable (P : Config.Primitives) {s : Bytes}

theorem normalize_verbatim (hs : s.length = 32) (e : KfEnd) : ∃ d, normalize P s e = .ok d ∧ d.toList = s := by
  obtain ⟨d, hd⟩ := exists_toBytes32 hs
  exact ⟨d, by simp [normalize, hs, hd], (toBytes32_eq_some_iff.1 hd).symm⟩

theorem normalize_hex {d : Bytes32} (hs : s.length = 64) (hd : hexDecode32 s = some d) (e : KfEnd) :
    normalize P s e = .ok d := by
  simp [normalize, hs, hd]

/-- Every other stream is hashed whole: the count of 65 stands for all longer ones. -/
theorem normalize_other (h32 : s.length ≠ 32) (h64 : ¬ (s.length = 64 ∧ ∃ d, hexDecode32 s = some d)) (e : KfEnd) :
    normalize P s e = normalizeHash P s e := by
  simp only [normalize]
  rw [if_neg (by omega)]
  split_ifs with hn
  · have hd : hexDecode32 s = none := Option.eq_none_iff_forall_ne_some.2 fun d hd => h64 ⟨by omega, d, hd⟩
    rw [hd]
  · rfl

end

/-- Settles O30, row by row. -/
theorem normalizeFollowsTheTable : Obligations.NormalizeFollowsTheTable := by
  unfold Obligations.NormalizeFollowsTheTable
  intro P s e
  refine ⟨fun hs => normalize_verbatim P hs e, fun d hs hd => normalize_hex P hs hd e, fun h32 h64 => ?_⟩
  rw [normalize_other P h32 h64]
  exact ⟨fun he => he ▸ rfl, fun c he => he ▸ rfl⟩

end Sys2Proof.Machine
end

section
/-! `KFREAD` (R150): its stream events (R157 to R159), its finish step (R160), and a whole stream (R162). -/

namespace Sys2Proof.Machine

/-! ## Stream events -/

section
variable {s : State}

theorem exec_push_open (hs : s.op = .kfread ∧ s.phase = .kfStream) (b : Byte) :
    exec (.push b) s = .next { s with bus := .ok, kfAll := s.kfAll ++ [b] } := if_pos hs

theorem exec_eos_open (hs : s.op = .kfread ∧ s.phase = .kfStream) :
    exec .eos s = .next { s with bus := .ok, kfEnd := .eos, phase := .kfFinish } := if_pos hs

theorem exec_srcerr_open (hs : s.op = .kfread ∧ s.phase = .kfStream) (c : Byte) :
    exec (.srcerr c) s = .next { s with bus := .ok, kfEnd := .err c, phase := .kfFinish } := if_pos hs

end

/-- Settles O23: the words by `decode_encode`, then the three events in an open stream and elsewhere. -/
theorem streamEventsAct : Obligations.StreamEventsAct := by
  unfold Obligations.StreamEventsAct
  refine ⟨fun b => ⟨rfl, decode_encode (.push b)⟩, ⟨rfl, decode_encode .eos⟩,
    fun c => ⟨rfl, decode_encode (.srcerr c)⟩, fun s => ⟨fun ho hp => ?_, fun hs => ?_⟩⟩
  · exact ⟨exec_push_open ⟨ho, hp⟩, exec_eos_open ⟨ho, hp⟩, exec_srcerr_open ⟨ho, hp⟩⟩
  · exact ⟨fun _ => exec_event_refused rfl hs, exec_event_refused rfl hs, fun _ => exec_event_refused rfl hs⟩

/-! ## The finish step -/

section
variable {s : State}

theorem sequencerStep_kfFinish (hp : s.phase = .kfFinish) (ho : s.op = .kfread) :
    s.sequencerStep = some s.kfFinishStep := by
  simp only [State.sequencerStep, hp, ho, if_true]

/-- Completing in the finish phase: all of the hidden state but the stream is zero already (R46). -/
theorem MachineInv.endCommand_kfFinish (h : MachineInv s) (hp : s.phase = .kfFinish) (ho : s.op = .kfread) :
    s.endCommand = { s with busy := false, op := .none, phase := .idle, kfAll := [], kfEnd := .none } := by
  obtain ⟨hks, hdir⟩ := h.openFields (by simp [ho])
  have hclr := h.clearField (by simp [ho])
  have hbuf := h.baseBufZero (by simp [hp])
  have hcnt := h.laneCntZero (by simp [hp])
  have hkey := h.keyTmpZero (by simp [hp]) (by simp [hp])
  simp only [State.endCommand, hks, hdir, hclr, hbuf, hcnt, hkey]

/-- On a hash the finish step writes `KFH`, `KF_LEN` and `DONE` besides ending the command. -/
theorem kfFinishStep_stores {k : Bytes32} (hn : normalize Config.primitives s.kfAll s.kfEnd = .ok k) :
    s.kfFinishStep = { s.endCommand with kfh := k, kfLen := 32, done := true } := kfFinishStep_ok hn

/-- On a source error the finish step records `E_IO` besides ending the command. -/
theorem kfFinishStep_reports {c : Byte} (hn : normalize Config.primitives s.kfAll s.kfEnd = .error c) :
    s.kfFinishStep = { s.endCommand with
      err := true
      errcode := if s.err then s.errcode else BitVec.ofNat 32 (c.toNat * 256 + 0x03)
      done := false } := kfFinishStep_error hn

end

/-- Settles O35: the two outcomes of the finish step, the end of the command spelled out. -/
theorem finishStepStoresTheHashOrReports : Obligations.FinishStepStoresTheHashOrReports := by
  unfold Obligations.FinishStepStoresTheHashOrReports
  intro s h ho hp
  have hend := h.endCommand_kfFinish hp ho
  refine ⟨fun k hn => ?_, fun c hn => ?_⟩
  · rw [sequencerStep_kfFinish hp ho, kfFinishStep_stores hn, hend]
  · rw [sequencerStep_kfFinish hp ho, kfFinishStep_reports hn, hend]

/-! ## A whole stream -/

section
variable {s : State}

/-- The turn of the host that writes an instruction's word (R90, R102). -/
theorem act_instrAccess (i : Instr) (s : State) : act (.host (instrAccess i)) s = exec i s :=
  hostAccess_portOffset_of_decode (decode_encode i) s

/-- A stream ends by one event. -/
theorem exists_endEvent {e : KfEnd} (he : e ≠ .none) : ∃ i, endEvent e = [i] := by
  cases e with
  | none => exact absurd rfl he
  | eos | err => exact ⟨_, rfl⟩

/-- The event that ends a stream records how it ended (R158, R159). -/
theorem exec_endEvent (hs : s.op = .kfread ∧ s.phase = .kfStream) {e : KfEnd} {i : Instr} (hi : endEvent e = [i]) :
    exec i s = .next { s with bus := .ok, kfEnd := e, phase := .kfFinish } := by
  cases e with
  | none => cases hi
  | eos => cases hi; exact exec_eos_open hs
  | err c => cases hi; exact exec_srcerr_open hs c

theorem length_streamActions (bs : Bytes) {e : KfEnd} (he : e ≠ .none) :
    (streamActions bs e).length = bs.length + 1 := by
  obtain ⟨i, hi⟩ := exists_endEvent he
  simp [streamActions, hi]

/-- The writes of a finished stream leave its bytes and its end in an open `KFREAD` (R151). -/
theorem runActions_streamActions (bs : Bytes) {e : KfEnd} (he : e ≠ .none)
    (hs : s.op = .kfread ∧ s.phase = .kfStream) :
    s.runActions (streamActions bs e) =
      some { s with agenda := [], bus := .ok, kfAll := s.kfAll ++ bs, kfEnd := e, phase := .kfFinish } := by
  induction bs generalizing s with
  | nil =>
    obtain ⟨i, hi⟩ := exists_endEvent he
    have hsingle : streamActions [] e = [.host (instrAccess i)] := by simp [streamActions, hi]
    rw [hsingle, runActions_cons ((act_instrAccess i s).trans (exec_endEvent hs hi)), runActions_nil, List.append_nil]
  | cons b bs ih =>
    have hcons : streamActions (b :: bs) e = .host (instrAccess (.push b)) :: streamActions bs e := rfl
    have hpush := (act_instrAccess (.push b) s).trans (exec_push_open hs b)
    rw [hcons, (runActions_cons hpush _).trans (ih hs), List.append_assoc, List.singleton_append]

theorem autoStep_of_sequencerStep {t : State} (h : s.sequencerStep = some t) : s.autoStep = t := by
  simp only [State.autoStep, h]

/-- The state `s` with a `KFREAD` in flight whose stream `(bs, e)` is finished and delivered. -/
def State.streamEnded (s : State) (bs : Bytes) (e : KfEnd) : State :=
  { s with
    agenda := [], bus := .ok, done := false, busy := true, op := .kfread, phase := .kfFinish, kfAll := bs, kfEnd := e }

/-- From an idle block, `KFREAD` and the writes of a finished stream lead to its finish step (R150, R162). -/
theorem exec_kfread_runActions (q : Quiescent s) (bs : Bytes) {e : KfEnd} (he : e ≠ .none) :
    ∃ t, exec .kfread s = .next t ∧ t.runActions (streamActions bs e) = some (s.streamEnded bs e) := by
  refine ⟨_, exec_kfread_issues q.busy, (runActions_streamActions bs he ⟨rfl, rfl⟩).trans ?_⟩
  simp only [State.issue, State.accepted, State.streamEnded, List.nil_append, q.cKs, q.cDir, q.cClr]

/-- The block's own step is then the finish step (R160). -/
theorem step_streamEnded (s : State) (bs : Bytes) (e : KfEnd) :
    step (s.streamEnded bs e) = .next (s.streamEnded bs e).kfFinishStep := by
  rw [step_nil rfl, autoStep_of_sequencerStep (sequencerStep_kfFinish rfl rfl)]

/-- The end of the command gives the idle block back, `DONE` cleared (R46). -/
theorem Quiescent.endCommand_streamEnded (q : Quiescent s) (bs : Bytes) (e : KfEnd) :
    (s.streamEnded bs e).endCommand = { s with agenda := [], bus := .ok, done := false } := by
  simp only [State.endCommand, State.streamEnded, q.busy, q.op, q.phase, q.cKs, q.cDir, q.cClr, q.baseBuf, q.laneCnt,
    q.keyTmp, q.kfAll, q.kfEnd]

end

/-- Settles O39: the stream is delivered in one step an event (`exec_kfread_runActions`), and the step after it is the
finish step with its two outcomes. -/
theorem kfreadOfAFinishedStreamNormalizesIt : Obligations.KfreadOfAFinishedStreamNormalizesIt := by
  unfold Obligations.KfreadOfAFinishedStreamNormalizesIt
  intro s bs e h hb he
  have q := h.quiescent hb
  obtain ⟨t, hissue, hrun⟩ := exec_kfread_runActions q bs he
  have hlen : (streamActions bs e).length + 1 = bs.length + 2 := by rw [length_streamActions bs he]
  have hend := q.endCommand_streamEnded bs e
  refine ⟨t, hissue, ?_⟩
  rw [← hlen, stateAfter_add _ 1 hrun, stateAfter_succ 0 (step_streamEnded s bs e), stateAfter_zero]
  cases hn : normalize Config.primitives bs e with
  | ok k => rw [kfFinishStep_stores hn, hend]
  | error c => rw [kfFinishStep_reports hn, hend]; rfl

end Sys2Proof.Machine
end

section
/-! The select step of an `OPEN` (R171, R174, R175): which identifiers it recognises, and the state each outcome leaves. -/

namespace Sys2Proof.Machine

/-! ## The selector -/

/-- `CID_RECOGNISED` of R7. -/
theorem cidRecognised_iff (cid : Byte) : Config.cidRecognised cid = true ↔ cid = 0x00 ∨ cid = 0x01 := by
  simp only [Config.cidRecognised, Bool.or_eq_true, beq_iff_eq]

theorem select_eq_none_iff (cid : Byte) (key : Bytes32) : select cid key = none ↔ cid ≠ 0x00 ∧ cid ≠ 0x01 := by
  rw [← not_or, ← cidRecognised_iff, select, ite_eq_right_iff]
  simp only [reduceCtorEq, imp_false]

theorem eq_of_select_eq_some {cid : Byte} {key : Bytes32} {inst : CipherInstance} (h : select cid key = some inst) :
    inst = ⟨Config.selMap cid, key, Config.blockSize⟩ := by
  rw [select, Option.ite_none_right_eq_some] at h
  exact (Option.some.inj h.2).symm

/-! ## The outcomes of the select step -/

section
variable {s : State}

theorem sequencerStep_select (hp : s.phase = .select) (ho : s.op = .openSession) :
    s.sequencerStep = some s.selectStep := by
  simp only [State.sequencerStep, hp, ho, if_true]

/-- Part (1) of the select step writes `CKEY` alone (R174). -/
theorem commitDerivedKey_frame (s : State) : s.commitDerivedKey = { s with ckey := s.commitDerivedKey.ckey } := by
  unfold State.commitDerivedKey
  split <;> rfl

theorem commitDerivedKey_ckey (s : State) :
    s.commitDerivedKey.ckey = if s.cKs = .derived then s.keyTmp else s.ckey := by
  cases hk : s.cKs with
  | derived => rw [commitDerivedKey_derived hk, if_pos rfl]
  | supplied => rw [commitDerivedKey_supplied hk, if_neg nofun]

/-- A recognised identifier ends the command with a session (R174). -/
theorem selectStep_opens (h : s.cid = 0x00 ∨ s.cid = 0x01) :
    s.selectStep = { s.endCommand with
      ckey := s.commitDerivedKey.ckey
      sess := ⟨true, 0, s.keyTmp, s.iv, s.cDir⟩
      done := true } := by
  rw [selectStep_recognised ((cidRecognised_iff _).2 h), commitDerivedKey_frame]
  rfl

/-- Any other identifier ends it with `E_UNSUPPORTED` and leaves the latches alone (R175). -/
theorem selectStep_reports (h : ¬ (s.cid = 0x00 ∨ s.cid = 0x01)) :
    s.selectStep = { s.endCommand with
      ckey := s.commitDerivedKey.ckey
      err := true
      errcode := if s.err then s.errcode else errcodeWord .unsupported s.cid
      done := false } := by
  rw [selectStep_unrecognised (Bool.eq_false_iff.2 (mt (cidRecognised_iff _).1 h)), commitDerivedKey_frame]
  rfl

end

/-- Settles O32: both identifiers take the first outcome of the select step, which does not look at `CID` again. -/
theorem recognisedIdentifiersSelectTheSameCipher : Obligations.RecognisedIdentifiersSelectTheSameCipher := by
  unfold Obligations.RecognisedIdentifiersSelectTheSameCipher
  refine ⟨fun s => ?_, fun cid key => ⟨select_eq_none_iff cid key, fun inst h => ?_⟩⟩
  · rw [selectStep_opens (.inl rfl), selectStep_opens (.inr rfl), commitDerivedKey_ckey, commitDerivedKey_ckey]
    rfl
  · obtain rfl := eq_of_select_eq_some h
    exact ⟨rfl, rfl, rfl⟩

/-- Settles O34: the two outcomes of the select step, and what the invariant says of the latches of an `OPEN` in flight. -/
theorem selectStepOpensOrReports : Obligations.SelectStepOpensOrReports := by
  unfold Obligations.SelectStepOpensOrReports
  refine ⟨fun s ho hp => ?_, fun s h ho hp hc => ?_⟩
  · rw [sequencerStep_select hp ho]
    split
    next hc => rw [selectStep_opens hc, commitDerivedKey_ckey]; rfl
    next hc => rw [selectStep_reports hc, commitDerivedKey_ckey]; rfl
  · have hsess : s.sess = Session.closed := h.sessClosed (h.openClosesSession ho)
    refine ⟨hsess, s.selectStep, sequencerStep_select hp ho, ?_⟩
    rw [selectStep_reports hc]
    exact hsess

end Sys2Proof.Machine
end

section
/-! A whole `OPEN`, from its issue at an idle block to its completion, by the block's own steps (R170, R173 to R176): first
`OPEN ks=1`, which has only the select step to come, then the run of `OPEN ks=0`, then the two side by side. -/

namespace Sys2Proof.Machine

/-- The state `s` with an `OPEN` in flight: besides the flags and the latched fields only the session, the phase and the
datapath differ. -/
def State.opening (s : State) (ks : KeySource) (dir : Direction) (p : Phase) (buf : Bytes32) (cnt : Vector Word 2)
    (key : Bytes32) : State :=
  { s with
    bus := .ok, done := false, busy := true, op := .openSession, cKs := ks, cDir := dir, sess := Session.closed
    phase := p, baseBuf := buf, laneCnt := cnt, keyTmp := key }

/-- The state in which an `OPEN` issued at the idle state `s` ends when it has resolved `key` (R174, R175). -/
def State.openDone (s : State) (dir : Direction) (key : Bytes32) : State :=
  if s.cid = 0x00 ∨ s.cid = 0x01 then
    { s with bus := .ok, done := true, ckey := key, sess := ⟨true, 0, key, s.iv, dir⟩ }
  else
    { s with
      bus := .ok, done := false, ckey := key, sess := Session.closed, err := true
      errcode := if s.err then s.errcode else errcodeWord .unsupported s.cid }

section
variable {s : State}

/-- The end of the command gives the idle block back, `DONE` cleared and the session closed (R46, R173). -/
theorem Quiescent.endCommand_opening (q : Quiescent s) (ks : KeySource) (dir : Direction) (p : Phase) (buf : Bytes32)
    (cnt : Vector Word 2) (key : Bytes32) :
    (s.opening ks dir p buf cnt key).endCommand = { s with bus := .ok, done := false, sess := Session.closed } := by
  simp only [State.endCommand, State.opening, q.busy, q.op, q.phase, q.cKs, q.cDir, q.cClr, q.baseBuf, q.laneCnt,
    q.keyTmp, q.kfAll, q.kfEnd]

/-- With the key resolved, the select step ends the command, whichever the key's source (R174, R175). -/
theorem Quiescent.selectStep_opening (q : Quiescent s) {ks : KeySource} {key : Bytes32}
    (hkey : ks = .supplied → s.ckey = key) (dir : Direction) (p : Phase) (buf : Bytes32) (cnt : Vector Word 2) :
    (s.opening ks dir p buf cnt key).selectStep = s.openDone dir key := by
  have hckey : (s.opening ks dir p buf cnt key).commitDerivedKey.ckey = key := by
    cases ks with
    | derived => rfl
    | supplied => exact hkey rfl
  have hend := q.endCommand_opening ks dir p buf cnt key
  by_cases hc : s.cid = 0x00 ∨ s.cid = 0x01
  · rw [State.openDone, if_pos hc, selectStep_opens (s := s.opening ks dir p buf cnt key) hc, hend, hckey]
    rfl
  · rw [State.openDone, if_neg hc, selectStep_reports (s := s.opening ks dir p buf cnt key) hc, hend, hckey]
    rfl

/-! ## The issue, for either key source (R173) -/

theorem Quiescent.openIssue_supplied (q : Quiescent s) (dir : Direction) :
    s.accepted.openIssue .supplied dir = s.opening .supplied dir .select s.baseBuf s.laneCnt s.ckey := by
  simp only [State.openIssue, State.closeSession, State.issue, State.accepted, State.opening, q.cClr]

theorem Quiescent.openIssue_derived (q : Quiescent s) (dir : Direction) :
    s.accepted.openIssue .derived dir = s.opening .derived dir .base s.baseBuf s.laneCnt s.keyTmp := by
  simp only [State.openIssue, State.closeSession, State.issue, State.accepted, State.opening, q.cClr]

/-! ## `OPEN ks=1` -/

/-- `OPEN ks=1` has one internal step to come, the select step on `CKEY`. -/
theorem Quiescent.stateAfter_openIssue_supplied (q : Quiescent s) (hs : s.agenda = []) (dir : Direction) :
    stateAfter 1 (s.accepted.openIssue .supplied dir) = some (s.openDone dir s.ckey) := by
  rw [q.openIssue_supplied, ← q.selectStep_opening (fun _ => rfl) dir .select s.baseBuf s.laneCnt,
    ← autoStep_of_sequencerStep (sequencerStep_select rfl rfl)]
  exact stateAfter_succ 0 (step_nil hs)

end

/-- Settles O41: the one step to come is the select step, with its two outcomes (`State.openDone`). -/
theorem openWithSuppliedKeyRunsToCompletion : Obligations.OpenWithSuppliedKeyRunsToCompletion := by
  unfold Obligations.OpenWithSuppliedKeyRunsToCompletion
  intro s dir h hb hs
  exact ⟨_, exec_openSession_issues (ks := .supplied) hb nofun dir, rfl,
    (h.quiescent hb).stateAfter_openIssue_supplied hs dir⟩

/-! ## `OPEN ks=0` -/

/-- An `OPEN ks=0` issued at the idle state `s` is in flight in `u`. -/
structure OpenInFlight (s : State) (dir : Direction) (u : State) : Prop where
  inv : MachineInv u
  derivation : DerivationInv u
  frame : ∃ p buf cnt key, u = s.opening .derived dir p buf cnt key

/-- Every internal step of an `OPEN` but its select step moves the phase and the datapath alone (R130 to R134). -/
theorem internalStep_of_openSession {s t : State} {a : Action} (ho : s.op = .openSession)
    (hs : s.internalStep a = some t) :
    (∃ p buf cnt key, t = { s with phase := p, baseBuf := buf, laneCnt := cnt, keyTmp := key }) ∨
      s.phase = .select ∧ t = s.selectStep := by
  cases a with
  | sequencer =>
    rcases sequencerStep_cases hs with ⟨-, -, rfl⟩ | ⟨-, -, -, -, rfl⟩ | ⟨-, -, rfl⟩ | ⟨hp, -, rfl⟩ | ⟨-, hq, -⟩ |
      ⟨-, hq, -⟩
    · exact .inl ⟨.stretch, _, _, s.keyTmp, rfl⟩
    · exact .inl ⟨.final, _, s.laneCnt, _, rfl⟩
    · exact .inl ⟨.select, s.baseBuf, s.laneCnt, s.keyTmp, finalStep_openSession ho⟩
    · exact .inr ⟨hp, rfl⟩
    all_goals exact Op.noConfusion (ho.symm.trans hq)
  | lane j =>
    obtain ⟨-, -, rfl⟩ := laneStep_cases hs
    exact .inl ⟨s.phase, _, _, s.keyTmp, laneEncStep_frame s j⟩
  | host | codec | reset => cases hs

section
variable {s u v : State} {dir : Direction}

theorem openDone_phase (s : State) (dir : Direction) (key : Bytes32) : (s.openDone dir key).phase = s.phase := by
  unfold State.openDone
  split <;> rfl

theorem OpenInFlight.op (h : OpenInFlight s dir u) : u.op = .openSession := by
  obtain ⟨p, buf, cnt, key, rfl⟩ := h.frame
  rfl

theorem OpenInFlight.agenda (h : OpenInFlight s dir u) : u.agenda = s.agenda := by
  obtain ⟨p, buf, cnt, key, rfl⟩ := h.frame
  rfl

/-- An `OPEN` reads no stream (R40), so one of the block's own agents has a step enabled. -/
theorem OpenInFlight.exists_internalStep (h : OpenInFlight s dir u) : ∃ a t, u.internalStep a = some t := by
  have hop : u.phase.belongsTo u.op := belongsTo_of_legalPhase h.inv.phaseLegal
  refine h.inv.exists_internalStep (h.inv.busyIffOp.2 (by simp [h.op])) fun hp => ?_
  rw [hp, h.op] at hop
  cases hop

theorem openInFlight_issue (h : MachineInv s) (hb : s.busy = false) (hl : s.lengthsLegal = true) (dir : Direction) :
    OpenInFlight s dir (s.accepted.openIssue .derived dir) where
  inv := h.accepted.openIssue hb rfl .derived dir fun _ => hl
  derivation := derivationInv_openIssue _ _ _
  frame := ⟨_, _, _, _, (h.quiescent hb).openIssue_derived dir⟩

/-- The select step finds the derived key in `KEYTMP` (R173, R174). -/
theorem OpenInFlight.selectStep (h : OpenInFlight s dir u) (q : Quiescent s) (hp : u.phase = .select) :
    u.selectStep = s.openDone dir s.derivedKey := by
  have hkey := h.derivation.resolved hp
  obtain ⟨p, buf, cnt, key, rfl⟩ := h.frame
  obtain rfl : key = s.derivedKey := hkey
  exact q.selectStep_opening (ks := .derived) nofun dir p buf cnt

/-- An internal step keeps an `OPEN ks=0` in flight, or ends it on the derived key. -/
theorem OpenInFlight.internalStep (h : OpenInFlight s dir u) (q : Quiescent s) {a : Action}
    (hs : u.internalStep a = some v) : OpenInFlight s dir v ∨ v = s.openDone dir s.derivedKey := by
  rcases internalStep_of_openSession h.op hs with hmove | ⟨hp, rfl⟩
  · refine .inl ⟨h.inv.internalStep hs, h.derivation.internalStep h.inv hs, ?_⟩
    obtain ⟨p, buf, cnt, key, rfl⟩ := hmove
    obtain ⟨-, -, -, -, rfl⟩ := h.frame
    exact ⟨p, buf, cnt, key, rfl⟩
  · exact .inr (h.selectStep q hp)

theorem OpenInFlight.internalWork_pos (h : OpenInFlight s dir u) : u.internalWork ≠ 0 := by
  obtain ⟨a, t, ht⟩ := h.exists_internalStep
  rw [← internalStep_internalWork ht]
  exact Nat.succ_ne_zero _

/-- An `OPEN ks=0` with `n` internal steps to come ends after exactly `n` steps. -/
theorem OpenInFlight.stateAfter_eq (h : OpenInFlight s dir u) (q : Quiescent s) (hs : s.agenda = []) {n : Nat}
    (hw : u.internalWork = n) : stateAfter n u = some (s.openDone dir s.derivedKey) := by
  induction n generalizing u with
  | zero => exact absurd hw h.internalWork_pos
  | succ n ih =>
    obtain ⟨a, ha⟩ := exists_internalStep_autoStep h.exists_internalStep
    have hn : u.autoStep.internalWork = n := Nat.succ.inj ((internalStep_internalWork ha).trans hw)
    rw [stateAfter_succ n (step_nil (h.agenda.trans hs))]
    rcases h.internalStep q ha with h' | hdone
    · exact ih h' hn
    · rw [hdone, internalWork_idle ((openDone_phase s dir _).trans q.phase)] at hn
      rw [hdone, ← hn, stateAfter_zero]

/-- `OPEN ks=0` just issued has `2·ROUNDS + 4` internal steps to come, one more than a `DERIVE`. -/
theorem MachineInv.stateAfter_openIssue_derived (h : MachineInv s) (hb : s.busy = false) (hl : s.lengthsLegal = true)
    (hs : s.agenda = []) (dir : Direction) :
    stateAfter (2 * s.rounds.toNat + 4) (s.accepted.openIssue .derived dir) = some (s.openDone dir s.derivedKey) :=
  (openInFlight_issue h hb hl dir).stateAfter_eq (h.quiescent hb) hs rfl

end

/-- Settles O42: the run keeps `OpenInFlight`, whose last step is the select step on the derived key. -/
theorem openWithDerivedKeyRunsToCompletion : Obligations.OpenWithDerivedKeyRunsToCompletion := by
  unfold Obligations.OpenWithDerivedKeyRunsToCompletion
  intro s dir h hb hl hs
  refine ⟨_, exec_openSession_issues hb (fun _ => hl) dir, rfl, ?_⟩
  rintro key rfl
  exact h.stateAfter_openIssue_derived hb hl hs dir

/-! ## The two ways to a session with the derived key -/

/-- `CKEY` as a `DERIVE` leaves it makes no other difference to an `OPEN` (R176). -/
theorem openDone_deriveDone (s : State) (dir : Direction) (key : Bytes32) :
    s.deriveDone.openDone dir key = s.openDone dir key := rfl

/-- Settles O43: both ways end in `State.openDone` with the derived key. -/
theorem openDerivedEqualsDeriveThenOpenSupplied : Obligations.OpenDerivedEqualsDeriveThenOpenSupplied := by
  unfold Obligations.OpenDerivedEqualsDeriveThenOpenSupplied
  intro s dir h hb hl hs
  have q := h.quiescent hb
  obtain ⟨hderive, -⟩ := DeriveRuns.stateAfter_eq q hs (.inl (deriveInFlight_issue h hb hl)) rfl
  have hsupplied := q.deriveDone.stateAfter_openIssue_supplied hs dir
  rw [openDone_deriveDone] at hsupplied
  exact ⟨_, _, _, _, _, exec_openSession_issues hb (fun _ => hl) dir, exec_derive_issues hb hl, hderive,
    exec_openSession_issues (ks := .supplied) q.deriveDone.busy nofun dir,
    h.stateAfter_openIssue_derived hb hl hs dir, hsupplied⟩

end Sys2Proof.Machine
end

section
/-! The writes of `STATUS` (R193) and `IRQ_EN` (R194) with the interrupt line (R37), and that no step but reset and the
acknowledgement takes `ERR` back. -/

namespace Sys2Proof.Machine

/-! ## The writes of `STATUS` and `IRQ_EN` -/

theorem bit_eq_true_iff (w : Word) (i : Nat) : bit w i = true ↔ field w i i = 1 := by
  simp only [bit, beq_iff_eq]

/-- R193 on the fields of the written word. -/
theorem acknowledge_eq (s : State) (v : Word) :
    s.acknowledge v = { s with
      done := if field v 1 1 = 1 then false else s.done
      err := if field v 2 2 = 1 then false else s.err
      errcode := if field v 2 2 = 1 then 0 else s.errcode } := by
  simp only [State.acknowledge, bit_eq_true_iff]

theorem irq_eq_true_iff (s : State) :
    s.irq = true ↔ (s.done = true ∧ s.doneIe = true) ∨ (s.err = true ∧ s.errIe = true) := by
  simp only [State.irq, Bool.or_eq_true, Bool.and_eq_true]

/-- Settles O20: the write is `writeIrqEn`, whose enables are the word's bits; `IRQ` is the level function of the state
it leaves. -/
theorem irqEnableWriteSetsTheLine : Obligations.IrqEnableWriteSetsTheLine := by
  unfold Obligations.IrqEnableWriteSetsTheLine
  refine ⟨fun s v hb => ?_, irq_eq_true_iff⟩
  have hdone : (s.writeIrqEn v).doneIe = true ↔ field v 1 1 = 1 := bit_eq_true_iff v 1
  have herr : (s.writeIrqEn v).errIe = true ↔ field v 2 2 = 1 := bit_eq_true_iff v 2
  refine ⟨(s.writeIrqEn v).respond .ok, hostAccess_write_accepted (busTarget_offset .irqEn) hb rfl, rfl, hdone, herr, ?_⟩
  rw [← hdone, ← herr]
  exact irq_eq_true_iff _

/-! ## The error record over a step -/

/-- An error recorded in `s` is still recorded in `t`, with the same `ERRCODE` (R224). -/
def KeepsError (s t : State) : Prop := s.err = true → t.err = true ∧ t.errcode = s.errcode

/-- The action is the host write that acknowledges the error, accepted at an idle block (R193). -/
def AcknowledgesError (s : State) (a : Action) : Prop :=
  ∃ v, a = .host (.write 0x004 4 v) ∧ field v 2 2 = 1 ∧ s.busy = false

theorem keepsError_of_eq {s t : State} (herr : t.err = s.err) (hcode : t.errcode = s.errcode) : KeepsError s t :=
  fun h => ⟨herr.trans h, hcode⟩

theorem keepsError_recordError (s : State) (e : ErrorCode) (info : Byte) : KeepsError s (s.recordError e info) :=
  fun h => ⟨rfl, if_pos h⟩

theorem keepsError_fail (s : State) (e : ErrorCode) (info : Byte) : KeepsError s (s.fail e info) :=
  keepsError_recordError s e info

theorem keepsError_selectStep (s : State) : KeepsError s s.selectStep := by
  cases hc : Config.cidRecognised s.cid with
  | true =>
    rw [selectStep_recognised hc, commitDerivedKey_frame]
    exact keepsError_of_eq rfl rfl
  | false =>
    rw [selectStep_unrecognised hc, commitDerivedKey_frame]
    exact keepsError_fail { s with ckey := _ } .unsupported s.cid

theorem keepsError_kfFinishStep (s : State) : KeepsError s s.kfFinishStep := by
  cases hn : normalize Config.primitives s.kfAll s.kfEnd with
  | ok h =>
    rw [kfFinishStep_ok hn]
    exact keepsError_of_eq rfl rfl
  | error c =>
    rw [kfFinishStep_error hn]
    exact keepsError_fail s .io c

theorem keepsError_finalStep (s : State) : KeepsError s s.finalStep := by
  unfold State.finalStep
  split <;> exact keepsError_of_eq rfl rfl

/-- The sequencer only records errors (R224, R226). -/
theorem sequencerStep_keepsError {s t : State} (hs : s.sequencerStep = some t) : KeepsError s t := by
  rcases sequencerStep_cases hs with ⟨-, -, rfl⟩ | ⟨-, -, -, -, rfl⟩ | ⟨-, -, rfl⟩ | ⟨-, -, rfl⟩ | ⟨-, -, rfl⟩ |
    ⟨-, -, rfl⟩
  · exact keepsError_of_eq rfl rfl
  · exact keepsError_of_eq rfl rfl
  · exact keepsError_finalStep s
  · exact keepsError_selectStep s
  · exact keepsError_kfFinishStep s
  · exact keepsError_of_eq rfl rfl

/-- Of the registers a host can write, `STATUS` alone reaches the error record, and only by its bit 2 (R64, R193). -/
theorem writeReg_keepsError {s t : State} {r : Reg} {i : Nat} {v : Word} (hw : s.writeReg r i v = some t) :
    (r = .status ∧ field v 2 2 = 1) ∨ KeepsError s t := by
  cases r <;> simp only [State.writeReg, reduceCtorEq, Option.some.injEq] at hw <;> subst hw
  case status =>
    by_cases hv : field v 2 2 = 1
    · exact .inl ⟨rfl, hv⟩
    · rw [acknowledge_eq]
      exact .inr (keepsError_of_eq (if_neg hv) (if_neg hv))
  case array a =>
    rw [writeWord_frame]
    exact .inr (keepsError_of_eq rfl rfl)
  case irqEn | rounds | kmLen | cipherId => exact .inr (keepsError_of_eq rfl rfl)

/-- A recorded error outlives every effect but reset and its acknowledgement (R193, R224). -/
theorem Effect.keepsError {s t : State} {a : Action} (he : Effect s a t) :
    a = .reset ∨ AcknowledgesError s a ∨ KeepsError s t := by
  cases he with
  | wrote off size v r i u hb ht hw =>
    rcases writeReg_keepsError hw with ⟨rfl, hv⟩ | hk
    · obtain ⟨rfl, -, -, -⟩ := busTarget_some ht
      obtain rfl : off = 0x004 := eq_offset_of_busTarget ht rfl
      exact .inr (.inl ⟨v, rfl, hv, hb⟩)
    · exact .inr (.inr hk)
  | sequenced _ hs => exact .inr (.inr (sequencerStep_keepsError hs))
  | laned j _ hs =>
    obtain ⟨-, -, rfl⟩ := laneStep_cases hs
    rw [laneEncStep_frame]
    exact .inr (.inr (keepsError_of_eq rfl rfl))
  | rejected _ e info _ => exact .inr (.inr (keepsError_recordError s.accepted e info))
  | codec e info _ => exact .inr (.inr (keepsError_recordError s e.toErrorCode info))
  | openSession _ ks _ _ _ => cases ks <;> exact .inr (.inr (keepsError_of_eq rfl rfl))
  | reset => exact .inl rfl
  | responded | derive | kfread | clear | pushed | ended | passed => exact .inr (.inr (keepsError_of_eq rfl rfl))

/-- Settles O19: the write of `STATUS` at an idle and at a busy block; a step that takes `ERR` back does not keep the
error, so it is reset or the acknowledgement (`Effect.keepsError`). -/
theorem ackIsTheOnlyWayToClearErr : Obligations.AckIsTheOnlyWayToClearErr := by
  unfold Obligations.AckIsTheOnlyWayToClearErr
  refine ⟨fun s v hb => ?_, fun s v hb => hostAccess_write_busy hb (by decide) 4 v, fun s t hs hset hclear => ?_⟩
  · have hacc : hostAccess (.write 0x004 4 v) s = .next ((s.acknowledge v).respond .ok) :=
      hostAccess_write_accepted (busTarget_offset .status) hb rfl
    rw [hacc, acknowledge_eq]
    rfl
  · obtain ⟨a, l, he, ha⟩ := step_effect_at hs
    rcases he.keepsError with rfl | ⟨v, rfl, hv, hb⟩ | hk
    · exact .inl ⟨l, ha rfl⟩
    · exact .inr ⟨v, l, ha rfl, hv, hb⟩
    · exact absurd (hk hset).1 (by simp [hclear])

end Sys2Proof.Machine
end

section
/-! `CLEAR`, from its issue at an idle block to its clear step (R190 to R192). -/

namespace Sys2Proof.Machine

section
variable {s : State}

theorem sequencerStep_clear (hp : s.phase = .clear) (ho : s.op = .clear) : s.sequencerStep = some s.clearStep := by
  simp only [State.sequencerStep, hp, ho, if_true]

/-- `CLR_KM` zeroes every byte of `PW`, whatever `PW_LEN` (R190). -/
theorem readByte_pw_discard (s : State) (m : ClearMask) (i : Nat) :
    (s.discard m).readByte .pw i = if m.km then 0 else s.readByte .pw i := by
  obtain ⟨km, ckey, sess⟩ := m
  cases km <;> rfl

/-- The clear step of a `CLEAR` issued at an idle block gives that block back, the mask's registers discarded (R192,
R46). -/
theorem Quiescent.clearStep_issue (q : Quiescent s) (m : ClearMask) :
    (s.accepted.issue .clear .clear .derived .encrypt m).clearStep = { s.discard m with bus := .ok, done := true } := by
  simp only [State.clearStep, State.succeed, State.endCommand, State.discard, State.issue, State.accepted, q.busy, q.op,
    q.phase, q.cKs, q.cDir, q.cClr, q.baseBuf, q.laneCnt, q.keyTmp, q.kfAll, q.kfEnd]

/-- A `CLEAR` has one internal step to come, the clear step. -/
theorem Quiescent.stateAfter_clear_issue (q : Quiescent s) (hs : s.agenda = []) (m : ClearMask) :
    stateAfter 1 (s.accepted.issue .clear .clear .derived .encrypt m) =
      some { s.discard m with bus := .ok, done := true } := by
  rw [← q.clearStep_issue m, ← autoStep_of_sequencerStep (sequencerStep_clear rfl rfl)]
  exact stateAfter_succ 0 (step_nil hs)

end

/-- Settles O44: the word by `decode_encode`; the one step to come discards what the mask names
(`Quiescent.stateAfter_clear_issue`). -/
theorem clearZeroesExactlyWhatItsMaskNames : Obligations.ClearZeroesExactlyWhatItsMaskNames := by
  unfold Obligations.ClearZeroesExactlyWhatItsMaskNames
  refine ⟨fun km ckey sess => ⟨rfl, decode_encode (.clear km ckey sess)⟩, fun s km ckey sess h hb hs => ?_⟩
  exact ⟨_, _, exec_clear_issues hb km ckey sess, (h.quiescent hb).stateAfter_clear_issue hs ⟨km, ckey, sess⟩,
    readByte_pw_discard s ⟨km, ckey, sess⟩, rfl⟩

end Sys2Proof.Machine
end

section
/-! The external codec (no part of GPKDE, log 10): its block split, its chaining and its padding each undo their inverse
(R201 to R207), and how its errors reach GPKDE (R208, R209). -/

namespace Sys2Proof.Machine

/-! ## Chaining (R201) -/

theorem xorBlock_xorBlock (a b : Bytes16) : xorBlock (xorBlock a b) b = a := by
  apply bytes_ext
  intro i hi
  simp only [xorBlock, Vector.getElem_ofFn, Fin.getElem_fin, BitVec.xor_assoc, BitVec.xor_self, BitVec.xor_zero]

@[simp] theorem length_cbcEncrypt (enc : Bytes16 → Bytes16) (chain : Bytes16) (ps : List Bytes16) :
    (cbcEncrypt enc chain ps).length = ps.length := by
  induction ps generalizing chain with
  | nil => rfl
  | cons p ps ih => simp only [cbcEncrypt, List.length_cons, ih]

/-- Each block is decrypted with the chaining value it was encrypted with, the cipher block before it (R201). -/
theorem cbcDecrypt_cbcEncrypt {enc dec : Bytes16 → Bytes16} (h : ∀ x, dec (enc x) = x) (chain : Bytes16)
    (ps : List Bytes16) : cbcDecrypt dec chain (cbcEncrypt enc chain ps) = ps := by
  induction ps generalizing chain with
  | nil => rfl
  | cons p ps ih => simp only [cbcEncrypt, cbcDecrypt, h, xorBlock_xorBlock, ih]

/-! ## Byte strings as blocks -/

@[simp] theorem ofBlocks_cons (b : Bytes16) (bs : List Bytes16) : ofBlocks (b :: bs) = b.toList ++ ofBlocks bs :=
  List.flatMap_cons

@[simp] theorem length_ofBlocks (bs : List Bytes16) : (ofBlocks bs).length = 16 * bs.length := by
  induction bs with
  | nil => rfl
  | cons b bs ih => simp only [ofBlocks_cons, List.length_append, Vector.length_toList, List.length_cons, ih]; omega

/-- The first 16 bytes are the first block. -/
theorem toBlocks_append (b : Bytes16) (s : Bytes) : toBlocks (b.toList ++ s) = b :: toBlocks s := by
  have hlen : (b.toList ++ s).length / 16 = s.length / 16 + 1 := by
    simp only [List.length_append, Vector.length_toList]
    omega
  unfold toBlocks
  rw [hlen, List.range_succ_eq_map, List.map_cons, List.map_map]
  congr 1
  · apply bytes_ext
    intro i hi
    rw [Vector.getElem_ofFn, List.getD_append _ _ _ _ (by rw [Vector.length_toList]; omega)]
    simp [hi]
  · refine List.map_congr_left fun k _ => bytes_ext fun i hi => ?_
    simp only [Function.comp_apply, Vector.getElem_ofFn]
    rw [List.getD_append_right _ _ _ _ (by rw [Vector.length_toList]; omega), Vector.length_toList]
    congr 1
    omega

@[simp] theorem toBlocks_ofBlocks (bs : List Bytes16) : toBlocks (ofBlocks bs) = bs := by
  induction bs with
  | nil => rfl
  | cons b bs ih => rw [ofBlocks_cons, toBlocks_append, ih]

/-- A string of whole blocks is the string of some blocks. -/
theorem exists_ofBlocks {n : Nat} {s : Bytes} (hs : s.length = 16 * n) : ∃ bs, s = ofBlocks bs := by
  induction n generalizing s with
  | zero => exact ⟨[], List.length_eq_zero_iff.mp hs⟩
  | succ n ih =>
    obtain ⟨bs, hbs⟩ := ih (s := s.drop 16) (by rw [List.length_drop]; omega)
    refine ⟨⟨(s.take 16).toArray, by simp; omega⟩ :: bs, ?_⟩
    rw [ofBlocks_cons, ← hbs]
    exact (List.take_append_drop 16 s).symm

theorem ofBlocks_toBlocks {n : Nat} {s : Bytes} (hs : s.length = 16 * n) : ofBlocks (toBlocks s) = s := by
  obtain ⟨bs, rfl⟩ := exists_ofBlocks hs
  rw [toBlocks_ofBlocks]

/-! ## Padding (R203, R205) -/

theorem one_le_padCount (n : Nat) : 1 ≤ padCount n := by unfold padCount; omega

theorem padCount_le (n : Nat) : padCount n ≤ 16 := by unfold padCount; omega

/-- Padding fills up the last block, and is a whole block where there is nothing to fill up (R203). -/
theorem length_addPadding (s : Bytes) : (addPadding s).length = 16 * (s.length / 16 + 1) := by
  simp only [addPadding, List.length_append, List.length_replicate, padCount]
  omega

/-- The padding value is a byte, so the last byte names the count (R203, R205). -/
theorem stripPadding_append_replicate (s : Bytes) {n : Nat} (h1 : 1 ≤ n) (h16 : n ≤ 16) :
    stripPadding (s ++ List.replicate n (BitVec.ofNat 8 n)) = some s := by
  have hp : (BitVec.ofNat 8 n).toNat = n := by rw [BitVec.toNat_ofNat, Nat.mod_eq_of_lt (by omega)]
  have hlast : (s ++ List.replicate n (BitVec.ofNat 8 n)).getLast? = some (BitVec.ofNat 8 n) := by
    rw [List.getLast?_append, List.getLast?_replicate, if_neg (by omega), Option.some_or]
  simp only [stripPadding, hlast, hp, List.length_append, List.length_replicate, Nat.add_sub_cancel, List.drop_left,
    List.take_left]
  exact if_pos ⟨h1, h16, Nat.le_add_left .., trivial⟩

theorem stripPadding_addPadding (s : Bytes) : stripPadding (addPadding s) = some s :=
  stripPadding_append_replicate s (one_le_padCount _) (padCount_le _)

/-! ## The codec on a whole stream -/

theorem codecRun_encrypt {p : CipherPort} (hv : p.valid = true) (hd : p.dir = .encrypt) (s : Bytes) :
    codecRun p s = some (codecEncrypt p s) := by
  simp only [codecRun, hv, hd, if_true]

theorem codecRun_decrypt {p : CipherPort} (hv : p.valid = true) (hd : p.dir = .decrypt) (s : Bytes) :
    codecRun p s = some (codecDecrypt p s) := by
  simp only [codecRun, hv, hd, if_true]

theorem codecDecrypt_misaligned (p : CipherPort) {s : Bytes} (hs : s.length % 16 ≠ 0) :
    codecDecrypt p s = .error .misaligned 0 := if_pos hs

/-- On whole blocks whose chaining undone leaves a padded plaintext, the decrypt direction gives that plaintext. -/
theorem codecDecrypt_of_padded {p : CipherPort} {cs : List Bytes16} {plain : Bytes}
    (h : ofBlocks (cbcDecrypt (Config.dec (memberOf p.member) p.key) p.iv cs) = addPadding plain) :
    codecDecrypt p (ofBlocks cs) = .ok plain := by
  have haligned : (ofBlocks cs).length % 16 = 0 := by rw [length_ofBlocks]; omega
  simp only [codecDecrypt, haligned, ne_eq, not_true_eq_false, if_false, toBlocks_ofBlocks, h, stripPadding_addPadding]

/-- Settles O54: the cipher stream is whole blocks, so its split gives the cipher blocks back, whose chaining
`cbcDecrypt_cbcEncrypt` undoes, leaving the padded plaintext. -/
theorem codecRoundTrip : Obligations.CodecRoundTrip := by
  unfold Obligations.CodecRoundTrip
  rintro p q plain hv hd rfl
  have hpad := length_addPadding plain
  have hplain : ofBlocks (toBlocks (addPadding plain)) = addPadding plain := ofBlocks_toBlocks hpad
  refine ⟨_, codecRun_encrypt hv hd plain, ?_, ?_⟩
  · rw [codecRun_decrypt (p := { p with dir := .decrypt }) hv rfl]
    exact congrArg some
      (codecDecrypt_of_padded (by rw [cbcDecrypt_cbcEncrypt (Config.dec_enc (memberOf p.member) p.key), hplain]))
  · rw [length_ofBlocks, length_cbcEncrypt, ← length_ofBlocks, hplain, hpad]

/-! ## Codec errors at GPKDE (R208, R209) -/

section
variable {s : State}

/-- R209: with a session open, a codec error is recorded. -/
theorem act_codec_of_session (hv : s.sess.valid = true) (e : CodecError) (info : Byte) :
    act (.codec e info) s = .next (s.recordError e.toErrorCode info) := by
  simp only [act, codecEvent, hv, if_true]

/-- R209, log 9: with no session, the model refuses it. -/
theorem act_codec_of_no_session (hv : s.sess.valid = false) (e : CodecError) (info : Byte) :
    act (.codec e info) s = .refused .codecEventWithoutSession := by
  simp only [act, codecEvent, hv, Bool.false_eq_true, if_false]

/-- R208: the stream's failure is the codec's error, in either direction. -/
theorem codecStream_failed (hv : s.sess.valid = true) (bs : Bytes) (c : Byte) :
    codecStream s.cipherPort bs (.failed c) = some (.error .io c) := by
  simp only [codecStream, State.cipherPort, hv, if_true]

end

/-- Settles O26: each of the three codes is recorded by `act_codec_of_session`. -/
theorem codecErrorIsRecordedUnmodified : Obligations.CodecErrorIsRecordedUnmodified := by
  unfold Obligations.CodecErrorIsRecordedUnmodified
  refine fun s info => ⟨fun hv => ⟨?_, ?_, ?_⟩, fun hv e => act_codec_of_no_session hv e info⟩
  · exact act_codec_of_session hv .misaligned info
  · exact act_codec_of_session hv .io info
  · exact act_codec_of_session hv .padding info

/-- Settles O55: the alignment test comes first (`codecDecrypt_misaligned`), and its error is the first recorded. -/
theorem misalignedCiphertextIsReported : Obligations.MisalignedCiphertextIsReported := by
  unfold Obligations.MisalignedCiphertextIsReported
  intro s c hv hd hc herr
  have hrun : codecRun s.cipherPort c = some (.error .misaligned 0) :=
    (codecRun_decrypt (p := s.cipherPort) hv hd c).trans (congrArg some (codecDecrypt_misaligned _ hc))
  refine ⟨_, _, _, hrun, rfl, rfl, act_codec_of_session hv .misaligned 0, ?_⟩
  simp only [State.recordError, herr, Bool.false_eq_true, if_false]
  rfl

/-- Settles O60: the failure is the codec's result (`codecStream_failed`) and is recorded by `act_codec_of_session`. -/
theorem codecIoFailureIsReportedVerbatim : Obligations.CodecIoFailureIsReportedVerbatim := by
  unfold Obligations.CodecIoFailureIsReportedVerbatim
  intro s bs c hv
  exact ⟨_, _, codecStream_failed hv bs c, rfl, act_codec_of_session hv .io c, rfl⟩

end Sys2Proof.Machine
end

section
/-! Exceptions: the first error recorded is the one kept (R224), and what the two completions and a rejection write (R225
to R227). -/

namespace Sys2Proof.Machine

/-- R224 as a write list. -/
theorem recordError_eq (s : State) (e : ErrorCode) (info : Byte) :
    s.recordError e info = { s with
      err := true
      errcode := if s.err then s.errcode else BitVec.ofNat 32 (info.toNat * 256 + e.code.toNat) } := rfl

/-- The step that takes the reset event leaves no error recorded. -/
theorem step_reset_err {s t : State} {rest : List Action} (ha : s.agenda = .reset :: rest) (hs : step s = .next t) :
    t.err = false := by
  obtain rfl := Host.Outcome.next.inj ((step_cons ha).symm.trans hs)
  rfl

/-- The step that takes the host's acknowledgement of the error leaves none recorded (R193). -/
theorem step_acknowledgesError_err {s t : State} {a : Action} {rest : List Action} (ha : s.agenda = a :: rest)
    (hack : AcknowledgesError { s with agenda := rest } a) (hs : step s = .next t) : t.err = false := by
  obtain ⟨v, rfl, hv, hb⟩ := hack
  have hwrite := ackIsTheOnlyWayToClearErr.1 { s with agenda := rest } v hb
  obtain rfl := Host.Outcome.next.inj (hwrite.symm.trans ((step_cons ha).symm.trans hs))
  exact if_pos hv

/-- Settles O24: a step that does not keep the error is reset or the acknowledgement (`Effect.keepsError`), and each of
them leaves `ERR` 0. -/
theorem firstErrorWins : Obligations.FirstErrorWins := by
  unfold Obligations.FirstErrorWins
  refine ⟨recordError_eq, fun s t hs hset hstays => ?_⟩
  obtain ⟨a, l, he, ha⟩ := step_effect_at hs
  rcases he.keepsError with rfl | hack | hk
  · exact absurd hstays (by simp [step_reset_err (ha rfl) hs])
  · have hagenda : s.agenda = a :: l := ha (by obtain ⟨v, rfl, -, -⟩ := hack; rfl)
    exact absurd hstays (by simp [step_acknowledgesError_err hagenda hack hs])
  · exact (hk hset).2

/-- Settles O25: each is the shared operation it is made of, `State.endCommand` for the two completions and
`State.recordError` (`recordError_eq`) for failure and rejection. -/
theorem completionsRestoreTheIdleState : Obligations.CompletionsRestoreTheIdleState := by
  unfold Obligations.CompletionsRestoreTheIdleState
  refine fun s => ⟨rfl, fun e info => ?_, fun e info => ?_⟩
  · rw [State.fail, recordError_eq]
    rfl
  · exact recordError_eq s.accepted e info

end Sys2Proof.Machine
end

section
/-! A `KFREAD` waits for its stream (R265): while the stream is open, a step leaves it open and the block busy, unless it
is reset or the host delivers the event that closes it. -/

namespace Sys2Proof.Machine

/-- A `KFREAD` is in flight and its stream is open (R156). -/
structure KfStreaming (s : State) : Prop where
  phase : s.phase = .kfStream
  op : s.op = .kfread
  busy : s.busy = true

/-- The word encodes an event that closes the stream (R158, R159). -/
def ClosesStream (w : Word) : Prop := decode .kfPush w = .instr .eos ∨ ∃ c, decode .kfPush w = .instr (.srcerr c)

/-- The command in flight while a stream is open is a `KFREAD` (R40). -/
theorem MachineInv.kfStreaming {s : State} (h : MachineInv s) (hp : s.phase = .kfStream) : KfStreaming s := by
  have hop : s.phase.belongsTo s.op := belongsTo_of_legalPhase h.phaseLegal
  rw [hp] at hop
  exact ⟨hp, hop, h.busy_of_kfStream hp⟩

/-- Of the stream events, `PUSH` alone leaves the stream open (R157). -/
theorem eventPortWrite_kfStreaming {s t : State} {w : Word} (hs : KfStreaming s) (h : eventPortWrite w s = .next t) :
    KfStreaming t ∨ ClosesStream w := by
  by_cases hd : ∃ i, decode .kfPush w = .instr i
  · obtain ⟨i, hi⟩ := hd
    cases i with
    | push b =>
      have hpush := (eventPortWrite_of_decode hi s).trans (exec_push_open ⟨hs.op, hs.phase⟩ b)
      obtain rfl := Host.Outcome.next.inj (hpush.symm.trans h)
      exact .inl { hs with }
    | eos => exact .inr (.inl hi)
    | srcerr c => exact .inr (.inr ⟨c, hi⟩)
    | derive | kfread | openSession | clear => cases port_of_decode hi
  · obtain rfl := Host.Outcome.next.inj ((eventPortWrite_of_noInstr hd s).symm.trans h)
    exact .inl { hs with }

/-- A host access to an open stream leaves it open: a read changes nothing, the busy rule refuses every write elsewhere
(R68), and a write to `KF_PUSH` delivers an event. -/
theorem hostAccess_kfStreaming {s t : State} {a : Access} (hs : KfStreaming s) (h : hostAccess a s = .next t) :
    KfStreaming t ∨ ∃ w, a = .write 0x01C 4 w ∧ ClosesStream w := by
  have hrefused (hr : hostAccess a s = .next { s with bus := .error }) : KfStreaming t := by
    obtain rfl := Host.Outcome.next.inj (hr.symm.trans h)
    exact { hs with }
  cases a with
  | read off size =>
    obtain rfl := Host.Outcome.next.inj h
    exact .inl { hs with }
  | write off size v =>
    by_cases hoff : off = 0x01C
    · subst hoff
      by_cases hsize : size = 4
      · subst hsize
        rw [hostAccess_write_kfPush] at h
        exact (eventPortWrite_kfStreaming hs h).imp_right fun hw => ⟨v, rfl, hw⟩
      · exact .inl (hrefused (hostAccess_write_untargeted (busTarget_misaligned (.inl hsize)) s v))
    · exact .inl (hrefused (hostAccess_write_busy hs.busy hoff size v))

/-- The other agents leave an open stream open, but for reset: the block's own have no step (`internalStep_kfStream`),
and the codec only reports (R209). -/
theorem Effect.kfStreaming {s t : State} {a : Action} (he : Effect s a t) (hs : KfStreaming s)
    (ha : ∀ acc, a ≠ .host acc) : a = .reset ∨ KfStreaming t := by
  cases he with
  | sequenced t h => exact absurd ((internalStep_kfStream hs.phase .sequencer).symm.trans h) nofun
  | laned j t h => exact absurd ((internalStep_kfStream hs.phase (.lane j)).symm.trans h) nofun
  | passed | codec => exact .inr { hs with }
  | reset => exact .inl rfl
  | responded | rejected | derive | kfread | openSession | clear | pushed | ended | wrote => exact absurd rfl (ha _)

/-- Whatever is on the agenda, an open stream stays open, is reset, or is closed by the host. -/
theorem KfStreaming.step {s t : State} (hs : KfStreaming s) (h : step s = .next t) :
    KfStreaming t ∨ (∃ rest, s.agenda = .reset :: rest) ∨
      ∃ w rest, s.agenda = .host (.write 0x01C 4 w) :: rest ∧ ClosesStream w := by
  rcases step_effect h with ⟨a, rest, ha, he⟩ | ⟨-, a, hint, he⟩
  · have hrest : KfStreaming { s with agenda := rest } := { hs with }
    by_cases hacc : ∃ acc, a = .host acc
    · obtain ⟨acc, rfl⟩ := hacc
      rcases hostAccess_kfStreaming hrest ((step_cons ha).symm.trans h) with ht | ⟨w, rfl, hw⟩
      · exact .inl ht
      · exact .inr (.inr ⟨w, rest, ha, hw⟩)
    · rcases he.kfStreaming hrest (not_exists.1 hacc) with rfl | ht
      · exact .inr (.inl ⟨rest, ha⟩)
      · exact .inl ht
  · rcases hint with rfl | ⟨j, rfl⟩ <;> exact .inl ((he.kfStreaming hs nofun).resolve_left nofun)

/-- Settles O40: a block with its stream open has a `KFREAD` in flight, of which `KfStreaming.step` speaks. -/
theorem kfreadStaysBusyUntilItsStreamEnds : Obligations.KfreadStaysBusyUntilItsStreamEnds := by
  unfold Obligations.KfreadStaysBusyUntilItsStreamEnds
  intro s t h hp hstep
  exact ((h.kfStreaming hp).step hstep).imp_left fun ht => ⟨ht.phase, ht.op, ht.busy⟩

end Sys2Proof.Machine
end
